-- ==== Sys2Proof/Word.lean ====
section
/-! DEFINITION. The bit-vector types of ICE (spec/00_scope.md R6, R7): no value is signed. -/

namespace Sys2Proof

/-- A byte of a buffer or of a wire field (R8). -/
abbrev Byte := BitVec 8

/-- A 16-bit register or wire field (R6). -/
abbrev Half := BitVec 16

/-- A 32-bit value: a register transfer on the bus, a command word, an IPv4 address, the checksum
accumulator (R6, R15, R53). -/
abbrev Word := BitVec 32

/-- An address of the host's 18-bit byte-addressed space (spec/20_memory.md R38). -/
abbrev Addr := BitVec 18

end Sys2Proof
end

