-- ==== Sys2Proof/Syntax.lean ====
section
/-! DEFINITION. What a host can write to ICE and ask of it: the five commands (spec/30_encoding.md
R55), the register names (spec/10_state.md R15), the host's accesses (spec/20_memory.md R39 to R43)
and the host notation (spec/30_encoding.md R63, R64). -/

namespace Sys2Proof

/-- The commands, one constructor per row of `opcode_table.json`. No command carries an operand (R57). -/
inductive Instr where
  /-- `NOP` (R99). -/
  | nop
  /-- `CKSUM` (R76). -/
  | cksum
  /-- `PARSE` (R87). -/
  | parse
  /-- `SERIALIZE` (R89). -/
  | serialize
  /-- `SRST` (R100). -/
  | srst
deriving DecidableEq, Repr

/-- Why a command word is reserved (R54, R56). -/
inductive Reserved where
  /-- One of the bits 31:8 (`ZERO`) is set. -/
  | zeroField
  /-- Bits 31:8 are zero and the operation code 7:0 is above 4. -/
  | opcode
deriving DecidableEq, Repr

/-- What the decoder makes of a command word. -/
inductive Decoded where
  /-- One of the five commands. -/
  | command (i : Instr)
  /-- A reserved word, with the reason. -/
  | reserved (why : Reserved)
deriving DecidableEq, Repr

/-- The 18 register names of the register file (R15). -/
inductive RegName where
  | CMD | STATUS | FLEN | PLEN | CK_OFF | CK_LEN | CSUM
  | TYPE | CODE | CHECKSUM | IDENT | SEQ | TTL | SRC | DST
  | TCLASS | CAPS | ID
deriving DecidableEq, Repr

/-- The host's access right to a register (R15, R16). -/
inductive AccessRight where
  /-- `WO`: a read returns 0 (only `CMD`). -/
  | writeOnly
  /-- `RO`: a write is ignored. -/
  | readOnly
  /-- `RW`. -/
  | readWrite
deriving DecidableEq, Repr

/-- The two byte buffers (R35). -/
inductive Buf where
  | frame
  | payload
deriving DecidableEq, Repr

/-- What a legal access designates: a register, or one byte of a buffer (R38). -/
inductive Location where
  | reg (r : RegName)
  | byte (b : Buf) (i : Nat)
deriving DecidableEq, Repr

/-- One action of the host: an access of `size` bytes at an address (R39 to R43, the tuples of R65), or
a hardware reset (R115). A one-byte write carries its byte in bits 7:0 of `v` (log entry 10). -/
inductive HostAction where
  | read (a : Addr) (size : Nat)
  | write (a : Addr) (size : Nat) (v : Word)
  | reset
deriving DecidableEq, Repr

/-- What the host was given by its last access (R126); the model's own field of State (log entry 7). -/
inductive Reply where
  /-- No access since the reset. -/
  | none
  /-- A write completed. -/
  | completed
  /-- A register read returned `v` (R39). -/
  | word (v : Word)
  /-- A byte read returned `v` (R41). -/
  | byte (v : Byte)
  /-- The access was a bus error (R43). -/
  | busError
deriving DecidableEq, Repr

/-- The host notation: the statements of R63 and the pseudo-statements of R64. -/
inductive HostStmt where
  /-- `wr NAME, v`. -/
  | wr (r : RegName) (v : Word)
  /-- `rd NAME`. -/
  | rd (r : RegName)
  /-- `wrb FRAME[i], b` or `wrb PAYLOAD[i], b`. -/
  | wrb (b : Buf) (i : Nat) (v : Byte)
  /-- `rdb FRAME[i]` or `rdb PAYLOAD[i]`. -/
  | rdb (b : Buf) (i : Nat)
  /-- `cmd M`. -/
  | cmd (i : Instr)
  /-- `fill FRAME[k], b0 ... b(n-1)` or the same on `PAYLOAD`. -/
  | fill (b : Buf) (k : Nat) (bs : List Byte)
  /-- `ldf b0 ... b(n-1)`. -/
  | ldf (bs : List Byte)
  /-- `ldp b0 ... b(n-1)`. -/
  | ldp (bs : List Byte)
  /-- `cksum k, n`; as in `wr`, the two data are 32-bit words, which the registers cut to 16 bits. -/
  | cksum (k n : Word)
  /-- `dump FRAME[k], n` or the same on `PAYLOAD`. -/
  | dump (b : Buf) (k n : Nat)
deriving DecidableEq, Repr

end Sys2Proof
end

