-- ==== Sys2Proof/Config.lean ====
section
/-! DEFINITION. The implementation parameters of spec/00_scope.md R5, with the defaults the spec gives, and
the one free value of the model: the buffer bytes after a hardware reset (spec/10_state.md R37). -/

namespace Sys2Proof

/-- The parameters of R5 (and of R2, R38 for the identification and the window bases). -/
structure Params where
  /-- `FRAME_CAP`. -/
  frameCap : Nat
  /-- `TYPE_ECHO_REPLY`. -/
  typeEchoReply : Byte
  /-- `TYPE_ECHO_REQUEST`. -/
  typeEchoRequest : Byte
  /-- `TYPE_TTL_EXPIRED`. -/
  typeTtlExpired : Byte
  /-- `BLOCK_ID`. -/
  blockId : Word
  /-- `REG_BASE`. -/
  regBase : Nat
  /-- `FRAME_BASE`. -/
  frameBase : Nat
  /-- `PAYLOAD_BASE`. -/
  payloadBase : Nat
deriving DecidableEq, Repr

/-- `PAY_CAP`, exactly `FRAME_CAP - 8` (R5). -/
def Params.payCap (P : Params) : Nat := P.frameCap - 8

/-- The capacity of a buffer (R35). -/
def Params.cap (P : Params) : Buf → Nat
  | .frame => P.frameCap
  | .payload => P.payCap

/-- The size of each window of the address space: 64 KiB (R38). -/
def windowSize : Nat := 0x10000

namespace Config

/-- The instance that runs: the defaults of R5 (log entries 1 and 2). -/
def params : Params where
  frameCap := 2000
  typeEchoReply := 0
  typeEchoRequest := 8
  typeTtlExpired := 11
  blockId := 0x49434D50
  regBase := 0x00000
  frameBase := 0x10000
  payloadBase := 0x20000

/-- FREE VALUE (R37, log entry 3): the byte that index `i` of buffer `b` holds after the `n`-th hardware
reset, until it is written. Nothing constrains it. -/
opaque resetByte (n : Nat) (b : Buf) (i : Nat) : Byte

end Config

end Sys2Proof
end

