-- ==== Sys2Proof/WellFormed.lean ====
section
/-! DEFINITION. The checks on terms: the constraints of spec/00_scope.md R5 on the parameters, and the shape of
a host access. A command has no operand (spec/30_encoding.md R57), so every command is well formed. -/

namespace Sys2Proof

/-- Every command is well formed: it has no operand to check (R57). -/
def Instr.wf : Instr → Bool
  | .nop => true
  | .cksum => true
  | .parse => true
  | .serialize => true
  | .srst => true

/-- `28 <= FRAME_CAP <= 65535` (R5). -/
def Params.capWf (P : Params) : Bool :=
  decide (28 ≤ P.frameCap) && decide (P.frameCap ≤ 65535)

/-- The three type numbers are pairwise distinct (R5). -/
def Params.typesWf (P : Params) : Bool :=
  decide (P.typeEchoReply ≠ P.typeEchoRequest) && decide (P.typeEchoReply ≠ P.typeTtlExpired)
    && decide (P.typeEchoRequest ≠ P.typeTtlExpired)

/-- Two windows of 64 KiB do not overlap. -/
def windowsApart (a b : Nat) : Bool :=
  decide (a + windowSize ≤ b) || decide (b + windowSize ≤ a)

/-- The windows lie in the 18-bit space and apart, and the register window is aligned to 4
(R38; for bases other than the defaults, log entry 9). -/
def Params.basesWf (P : Params) : Bool :=
  decide (P.regBase % 4 = 0)
    && decide (P.regBase + windowSize ≤ 0x40000) && decide (P.frameBase + windowSize ≤ 0x40000)
    && decide (P.payloadBase + windowSize ≤ 0x40000)
    && windowsApart P.regBase P.frameBase && windowsApart P.regBase P.payloadBase
    && windowsApart P.frameBase P.payloadBase

/-- The parameters meet every constraint of R5. -/
def Params.wf (P : Params) : Bool := P.capWf && P.typesWf && P.basesWf

/-- A host action has the form of a transfer of R65: size 4 or 1, and the datum of a one-byte write fits a
byte. (An action of another size is still given its meaning, a bus error, by R43.) -/
def HostAction.wf : HostAction → Bool
  | .read _ size => size == 4 || size == 1
  | .write _ size v => size == 4 || (size == 1 && decide (v.toNat < 256))
  | .reset => true

end Sys2Proof
end

