-- ==== Sys2Proof/Decode.lean ====
section
/-! DEFINITION. Decoding and encoding of the command word (spec/30_encoding.md R53 to R56, format `C`). -/

namespace Sys2Proof

/-- The field `ZERO` of format `C`: bits 31:8 (R54). -/
def zeroField (w : Word) : BitVec 24 := w.extractLsb' 8 24

/-- The field `OPC` of format `C`: bits 7:0 (R54). -/
def opcField (w : Word) : Byte := w.extractLsb' 0 8

/-- The command an operation code selects (R55); `none` for the codes above 4. -/
def commandOf (opc : Byte) : Option Instr :=
  if opc = 0 then some .nop
  else if opc = 1 then some .cksum
  else if opc = 2 then some .parse
  else if opc = 3 then some .serialize
  else if opc = 4 then some .srst
  else none

/-- Decoding, total on every 32-bit word (R54, R56): a set bit in 31:8 makes the word reserved, otherwise
bits 7:0 select the command or make the word reserved. -/
def decode (w : Word) : Decoded :=
  if zeroField w ≠ 0 then .reserved .zeroField
  else
    match commandOf (opcField w) with
    | some i => .command i
    | none => .reserved .opcode

/-- The operation code of a command (R55). -/
def opcode : Instr → Byte
  | .nop => 0x00
  | .cksum => 0x01
  | .parse => 0x02
  | .serialize => 0x03
  | .srst => 0x04

/-- The command word of a command: `ZERO` clear, `OPC` its operation code (R54, R55). -/
def encode (i : Instr) : Word := (0 : BitVec 24) ++ opcode i

/-- The command word whose bits are the low `nbits` bits of `w`, the bits above zero: every command is one
32-bit word (R53), a number and not a sequence of bytes (R48). -/
def tableWord (nbits w : Nat) : Word := BitVec.ofNat 32 (w % 2 ^ nbits)

/-- What the decoder reads from an instruction given as the opcode table numbers its bits. -/
def decodeTableWord (nbits w : Nat) : Option Instr :=
  match decode (tableWord nbits w) with
  | .command i => some i
  | .reserved _ => none

end Sys2Proof
end

