-- ==== Sys2Proof/Machine/State.lean ====
section
/-! DEFINITION. The state of ICE (spec/10_state.md R13): the 14 storage registers and the two buffers, and
the model's own three fields; the value a message is (spec/41_codec.md R81); reset (R37); the reasons
a step can stop. -/

namespace Sys2Proof.Machine

/-- The error of the most recent command, the stored content of `STATUS` (R18, R60, R103): exactly these
five values, so the codes 5 to 15 cannot occur. -/
inductive CmdError where
  /-- `None`, code 0: success. -/
  | none
  /-- `TruncatedIpHeader`, code 1 (R104). -/
  | truncatedIpHeader
  /-- `TruncatedIcmpHeader`, code 2 (R105). -/
  | truncatedIcmpHeader
  /-- `IllegalCommand`, code 3 (R107). -/
  | illegalCommand
  /-- `LengthRange`, code 4 (R108). -/
  | lengthRange
deriving DecidableEq, Repr

/-- An `IcmpMessage` value: nine fields (R81). -/
structure IcmpMessage where
  type : Byte
  code : Byte
  checksum : Half
  identifier : Half
  sequenceNumber : Half
  payload : List Byte
  ttl : Byte
  source : Word
  destination : Word
deriving DecidableEq, Repr

/-- The content of one buffer: the bytes written since the last hardware reset, as pairs of index and byte
with the indices strictly rising. An index that is not listed has not been written (log entry 8). -/
abbrev Memory := List Host.Cell

/-- The state of the block (R13), and the model's own fields `resets`, `pending` and `reply`. -/
structure State where
  /-- `STATUS`: its `ERR` field; `MALFORMED` is computed from it (R18). -/
  status : CmdError
  /-- `FLEN` (R19). -/
  flen : Half
  /-- `PLEN` (R20). -/
  plen : Half
  /-- `CK_OFF` (R29). -/
  ckOff : Half
  /-- `CK_LEN` (R30). -/
  ckLen : Half
  /-- `CSUM` (R31). -/
  csum : Half
  /-- `TYPE` (R21). -/
  type : Byte
  /-- `CODE` (R22). -/
  code : Byte
  /-- `CHECKSUM` (R23). -/
  checksum : Half
  /-- `IDENT` (R24). -/
  ident : Half
  /-- `SEQ` (R25). -/
  seq : Half
  /-- `TTL` (R26). -/
  ttl : Byte
  /-- `SRC` (R27). -/
  src : Word
  /-- `DST` (R28). -/
  dst : Word
  /-- `FRAME` (R35). -/
  frame : Memory
  /-- `PAYLOAD` (R35). -/
  payload : Memory
  /-- The model's own: how many hardware resets were taken, which selects the free values of unwritten
  buffer bytes (log entry 3). -/
  resets : Nat
  /-- The model's own: the host's actions still to come, in its program order (R50, log entry 4). -/
  pending : List HostAction
  /-- The model's own: what the last access returned to the host (log entry 7). -/
  reply : Reply
deriving DecidableEq, Repr

/-- No step of ICE faults: every host action in every state has a defined outcome (spec/70_reset_and_hazards.md
R126; spec/93_implementation_defined.md, end of section 1). Nobody raises a fault; that is safe. -/
inductive Fault where
deriving DecidableEq, Repr

/-- Why a step answers nothing. -/
inductive Refusal where
  /-- A command without a meaning. Raised by no one: every command has its meaning. Safe. -/
  | notModelled (mnemonic : String)
  /-- A bus error: the host's access of `size` bytes at address `a` is refused and the state is unchanged
  (spec/20_memory.md R43, R126, log entry 6). Raised by the step, never by a command. Safe. -/
  | busError (a : Addr) (size : Nat)
deriving DecidableEq, Repr

/-- The state after the first hardware reset (R37, R116): every storage register 0 and no buffer byte
written. That `resets` is 0, `pending` empty and `reply` none are the model's choices (log entries 3,
4, 7). -/
def State.reset : State where
  status := .none
  flen := 0
  plen := 0
  ckOff := 0
  ckLen := 0
  csum := 0
  type := 0
  code := 0
  checksum := 0
  ident := 0
  seq := 0
  ttl := 0
  src := 0
  dst := 0
  frame := []
  payload := []
  resets := 0
  pending := []
  reply := .none

end Sys2Proof.Machine
end

