-- ==== Sys2Proof/Machine/Ops.lean ====
section
/-! DEFINITION. The shared operations over the buffers and the registers, the one error entry
(spec/60_exceptions.md R106) and the hardware reset (spec/70_reset_and_hazards.md R115, R116). -/

namespace Sys2Proof.Machine

/-! ### A buffer's content as data -/

/-- The byte written last at index `i`; `none` for an index not written since the reset: what an unlisted
index reads as (log entry 8). -/
def Memory.lookup : Memory → Nat → Option Byte
  | [], _ => none
  | (k, b) :: m, i => if k = i then some b else Memory.lookup m i

/-- Write `b` at index `i`, keeping the indices strictly rising. -/
def Memory.store : Memory → Nat → Byte → Memory
  | [], i, b => [(i, b)]
  | (k, c) :: m, i, b =>
    if i < k then (i, b) :: (k, c) :: m
    else if i = k then (i, b) :: m
    else (k, c) :: Memory.store m i b

/-- Write the bytes `bs` at the indices `i`, `i + 1`, and so on. -/
def Memory.storeRange : Memory → Nat → List Byte → Memory
  | m, _, [] => m
  | m, i, b :: bs => Memory.storeRange (Memory.store m i b) (i + 1) bs

/-- The indices of `m` are strictly rising, all at least `lo` and all below `cap`. -/
def Memory.wfFrom (cap : Nat) : Nat → Memory → Bool
  | _, [] => true
  | lo, (k, _) :: m => decide (lo ≤ k) && decide (k < cap) && Memory.wfFrom cap (k + 1) m

/-- The canonical form of a buffer of `cap` bytes: strictly rising indices below `cap` (R35). -/
def Memory.wf (cap : Nat) (m : Memory) : Bool := Memory.wfFrom cap 0 m

/-! ### The buffers of a state -/

/-- The content of a buffer. -/
def State.buf (s : State) : Buf → Memory
  | .frame => s.frame
  | .payload => s.payload

/-- Replace the content of a buffer. -/
def State.setBuf (b : Buf) (m : Memory) (s : State) : State :=
  match b with
  | .frame => { s with frame := m }
  | .payload => { s with payload := m }

/-- `FRAME[i]` or `PAYLOAD[i]` (R9, R41): the byte written last, or the free value that the last hardware
reset left there (R37). -/
def State.byte (s : State) (b : Buf) (i : Nat) : Byte :=
  match Memory.lookup (s.buf b) i with
  | some v => v
  | none => Config.resetByte s.resets b i

/-- The byte sequence of `n` bytes from index `i` (R8, R9: `FRAME[i..i+n)`). -/
def State.bytes (s : State) (b : Buf) (i n : Nat) : List Byte :=
  (List.range n).map fun k => s.byte b (i + k)

/-- `FRAME[i] <- v` or `PAYLOAD[i] <- v` (R9, R42). -/
def State.storeByte (b : Buf) (i : Nat) (v : Byte) (s : State) : State :=
  s.setBuf b (Memory.store (s.buf b) i v)

/-- Write a byte sequence to a buffer from index `i` (the `for` loops of R87 and R89). -/
def State.storeBytes (b : Buf) (i : Nat) (bs : List Byte) (s : State) : State :=
  s.setBuf b (Memory.storeRange (s.buf b) i bs)

/-- Both buffers are in canonical form for the capacities of `P`. -/
def State.wf (P : Params) (s : State) : Bool :=
  Memory.wf P.frameCap s.frame && Memory.wf P.payCap s.payload

/-! ### Updates of the registers -/

/-- `reg[STATUS].ERR <- e`. -/
def State.setStatus (e : CmdError) (s : State) : State := { s with status := e }

/-- `reg[FLEN] <- v`. -/
def State.setFlen (v : Half) (s : State) : State := { s with flen := v }

/-- `reg[PLEN] <- v`. -/
def State.setPlen (v : Half) (s : State) : State := { s with plen := v }

/-- `reg[CSUM] <- v`. -/
def State.setCsum (v : Half) (s : State) : State := { s with csum := v }

/-- The eight message registers take the fields of a message, its payload apart (R87). -/
def State.setMessage (m : IcmpMessage) (s : State) : State :=
  { s with
    ttl := m.ttl
    src := m.source
    dst := m.destination
    type := m.type
    code := m.code
    checksum := m.checksum
    ident := m.identifier
    seq := m.sequenceNumber }

/-- Every storage register takes its reset value, 0; the buffers keep their bytes (R100). -/
def State.clearRegs (s : State) : State :=
  { s with
    status := .none
    flen := 0
    plen := 0
    ckOff := 0
    ckLen := 0
    csum := 0
    type := 0
    code := 0
    checksum := 0
    ident := 0
    seq := 0
    ttl := 0
    src := 0
    dst := 0 }

/-! ### The end of a command -/

/-- `raise e` (R9, R106): `reg[STATUS].ERR <- code(e)`, nothing else changes and the command ends. There is
no program counter to move, nothing is saved, and there is no return (R110). -/
def State.raise (e : CmdError) (s : State) : State := s.setStatus e

/-- A command that succeeds writes `reg[STATUS].ERR <- 0` (R18). -/
def State.succeed (s : State) : State := s.setStatus .none

/-! ### Hardware reset -/

/-- The hardware reset (R115, R116, R37): every storage register 0 and every buffer byte unspecified. The
counter `resets` moves on, so that the unwritten bytes are fresh free values (log entry 3). -/
def State.hardwareReset (s : State) : State :=
  { s.clearRegs with frame := [], payload := [], resets := s.resets + 1, reply := .none }

/-! ### The host's side -/

/-- Take the first action off the host's list; `r` is the reply to it unless the action gives another. -/
def State.begin (rest : List HostAction) (r : Reply) (s : State) : State :=
  { s with pending := rest, reply := r }

/-- What the host's access returns. -/
def State.setReply (r : Reply) (s : State) : State := { s with reply := r }

end Sys2Proof.Machine
end

