-- ==== Sys2Proof/Machine/Flags.lean ====
section
/-! DEFINITION. The computed fields: `STATUS` (spec/10_state.md R18, spec/30_encoding.md R60) and `TCLASS`
(R32, R61). -/

namespace Sys2Proof.Machine

/-- The code of an error in `STATUS.ERR` (R60). -/
def CmdError.errCode : CmdError → BitVec 4
  | .none => 0
  | .truncatedIpHeader => 1
  | .truncatedIcmpHeader => 2
  | .illegalCommand => 3
  | .lengthRange => 4

/-- `STATUS.MALFORMED`: 1 exactly for the two errors of the class `MalformedDatagram` (R18, R103). -/
def CmdError.malformedBit : CmdError → BitVec 1
  | .none => 0
  | .truncatedIpHeader => 1
  | .truncatedIcmpHeader => 1
  | .illegalCommand => 0
  | .lengthRange => 0

/-- The 5 bits of `STATUS`: `MALFORMED` in bit 4, `ERR` in bits 3:0 (R18). -/
def CmdError.statusBits (e : CmdError) : BitVec 5 := e.malformedBit ++ e.errCode

/-- `tclass_of` (R32): the class of a type number. -/
def tclassOf (P : Params) (t : Byte) : BitVec 2 :=
  if t = P.typeEchoRequest then 1
  else if t = P.typeEchoReply then 2
  else if t = P.typeTtlExpired then 3
  else 0

end Sys2Proof.Machine
end

