-- ==== Sys2Proof/Machine/Operands.lean ====
section
/-! DEFINITION. The operand forms: byte order (spec/00_scope.md R8, spec/20_memory.md R45 to R47), the register
file as the host and the commands see it (spec/10_state.md R15, R16), the address map (R38), and the
message that the registers hold (spec/41_codec.md R81). -/

namespace Sys2Proof.Machine

/-! ### Byte order -/

/-- `be16(hi, lo)`: first byte high (R8, R45). -/
def be16 (hi lo : Byte) : Half := hi ++ lo

/-- `hi8(v) = v[15:8]` (R8). -/
def hi8 (v : Half) : Byte := v.extractLsb' 8 8

/-- `lo8(v) = v[7:0]` (R8). -/
def lo8 (v : Half) : Byte := v.extractLsb' 0 8

/-- `le32(b0, b1, b2, b3)`: first byte low (R8, R46). -/
def le32 (b0 b1 b2 b3 : Byte) : Word := b3 ++ b2 ++ b1 ++ b0

/-! ### The register file -/

/-- Every register, in the order of R15. -/
def allRegs : List RegName :=
  [.CMD, .STATUS, .FLEN, .PLEN, .CK_OFF, .CK_LEN, .CSUM, .TYPE, .CODE, .CHECKSUM, .IDENT, .SEQ, .TTL,
    .SRC, .DST, .TCLASS, .CAPS, .ID]

/-- The offset of a register from `REG_BASE` (R15). -/
def regOffset : RegName → Nat
  | .CMD => 0x00
  | .STATUS => 0x04
  | .FLEN => 0x08
  | .PLEN => 0x0C
  | .CK_OFF => 0x10
  | .CK_LEN => 0x14
  | .CSUM => 0x18
  | .TYPE => 0x20
  | .CODE => 0x24
  | .CHECKSUM => 0x28
  | .IDENT => 0x2C
  | .SEQ => 0x30
  | .TTL => 0x34
  | .SRC => 0x38
  | .DST => 0x3C
  | .TCLASS => 0x40
  | .CAPS => 0x44
  | .ID => 0x48

/-- The width of a register (R15). -/
def regWidth : RegName → Nat
  | .CMD => 32
  | .STATUS => 5
  | .FLEN => 16
  | .PLEN => 16
  | .CK_OFF => 16
  | .CK_LEN => 16
  | .CSUM => 16
  | .TYPE => 8
  | .CODE => 8
  | .CHECKSUM => 16
  | .IDENT => 16
  | .SEQ => 16
  | .TTL => 8
  | .SRC => 32
  | .DST => 32
  | .TCLASS => 2
  | .CAPS => 32
  | .ID => 32

/-- The host's access right to a register (R15). -/
def regAccess : RegName → AccessRight
  | .CMD => .writeOnly
  | .STATUS => .readOnly
  | .FLEN => .readWrite
  | .PLEN => .readWrite
  | .CK_OFF => .readWrite
  | .CK_LEN => .readWrite
  | .CSUM => .readOnly
  | .TYPE => .readWrite
  | .CODE => .readWrite
  | .CHECKSUM => .readWrite
  | .IDENT => .readWrite
  | .SEQ => .readWrite
  | .TTL => .readWrite
  | .SRC => .readWrite
  | .DST => .readWrite
  | .TCLASS => .readOnly
  | .CAPS => .readOnly
  | .ID => .readOnly

/-- The register at an offset; `none` for an unmapped offset (R15). -/
def regAtOffset (off : Nat) : Option RegName := allRegs.find? fun r => regOffset r == off

/-- `CAPS`: `(PAY_CAP << 16) | FRAME_CAP` (R33). -/
def capsWord (P : Params) : Word := BitVec.ofNat 16 P.payCap ++ BitVec.ofNat 16 P.frameCap

/-- The 32-bit value a host reads from a register, zero-extended (R16, R39): `CMD` reads 0, `TCLASS` the class
of the current `TYPE` (R32), `CAPS` and `ID` their constants. DESIGN CHOICE (log entry 21): on an instance
whose request or expired type is 0, `TCLASS` after reset is `tclass_of(0)` (R32, R37, R116), 1 or 3, and not
the 0 of R15's reset column. -/
def readReg (P : Params) (r : RegName) (s : State) : Word :=
  match r with
  | .CMD => 0
  | .STATUS => s.status.statusBits.setWidth 32
  | .FLEN => s.flen.setWidth 32
  | .PLEN => s.plen.setWidth 32
  | .CK_OFF => s.ckOff.setWidth 32
  | .CK_LEN => s.ckLen.setWidth 32
  | .CSUM => s.csum.setWidth 32
  | .TYPE => s.type.setWidth 32
  | .CODE => s.code.setWidth 32
  | .CHECKSUM => s.checksum.setWidth 32
  | .IDENT => s.ident.setWidth 32
  | .SEQ => s.seq.setWidth 32
  | .TTL => s.ttl.setWidth 32
  | .SRC => s.src
  | .DST => s.dst
  | .TCLASS => (tclassOf P s.type).setWidth 32
  | .CAPS => capsWord P
  | .ID => P.blockId

/-- A host write of `w` to a register other than `CMD` (R16, R40): an `RW` register of width N stores
`trunc_N(w)`; a write to an `RO` register changes nothing. (A write to `CMD` runs a command: `runCommand`.
`CMD` stores nothing, R17.) -/
def writeReg (r : RegName) (w : Word) (s : State) : State :=
  match r with
  | .CMD => s
  | .STATUS => s
  | .FLEN => { s with flen := w.setWidth 16 }
  | .PLEN => { s with plen := w.setWidth 16 }
  | .CK_OFF => { s with ckOff := w.setWidth 16 }
  | .CK_LEN => { s with ckLen := w.setWidth 16 }
  | .CSUM => s
  | .TYPE => { s with type := w.setWidth 8 }
  | .CODE => { s with code := w.setWidth 8 }
  | .CHECKSUM => { s with checksum := w.setWidth 16 }
  | .IDENT => { s with ident := w.setWidth 16 }
  | .SEQ => { s with seq := w.setWidth 16 }
  | .TTL => { s with ttl := w.setWidth 8 }
  | .SRC => { s with src := w }
  | .DST => { s with dst := w }
  | .TCLASS => s
  | .CAPS => s
  | .ID => s

/-! ### The address map -/

/-- Does address `a` lie in the 64 KiB window at `base` (R38)? -/
def inWindow (base a : Nat) : Bool := decide (base ≤ a) && decide (a < base + windowSize)

/-- What an access of `size` bytes at address `a` designates (R38 to R42); `none` is a bus error (R43). -/
def locate (P : Params) (a size : Nat) : Option Location :=
  if inWindow P.regBase a then
    if size = 4 ∧ a % 4 = 0 then (regAtOffset (a - P.regBase)).map .reg else none
  else if inWindow P.frameBase a then
    if size = 1 ∧ a - P.frameBase < P.frameCap then some (.byte .frame (a - P.frameBase)) else none
  else if inWindow P.payloadBase a then
    if size = 1 ∧ a - P.payloadBase < P.payCap then some (.byte .payload (a - P.payloadBase)) else none
  else none

/-- The bus address of a register (R63). -/
def regAddr (P : Params) (r : RegName) : Addr := BitVec.ofNat 18 (P.regBase + regOffset r)

/-- The base of a buffer's window (R38). -/
def bufBase (P : Params) : Buf → Nat
  | .frame => P.frameBase
  | .payload => P.payloadBase

/-- The bus address of a buffer byte (R63). -/
def byteAddr (P : Params) (b : Buf) (i : Nat) : Addr := BitVec.ofNat 18 (bufBase P b + i)

/-! ### The message operand -/

/-- The message that the message registers, `PLEN` and `PAYLOAD` hold (R81). -/
def State.message (s : State) : IcmpMessage where
  type := s.type
  code := s.code
  checksum := s.checksum
  identifier := s.ident
  sequenceNumber := s.seq
  payload := s.bytes .payload 0 s.plen.toNat
  ttl := s.ttl
  source := s.src
  destination := s.dst

end Sys2Proof.Machine
end

