-- ==== Sys2Proof/Machine/Checksum.lean ====
section
/-! DEFINITION. The checksum engine (spec/40_checksum.md): the function `cksum16` (R69 to R75) and the command
`CKSUM` (R76). -/

namespace Sys2Proof.Machine

/-- The summing loop (R70, R71): the big-endian 16-bit words of the sequence, an odd last byte being the high
byte of a last word, added to a 32-bit accumulator. DESIGN CHOICE (log entry 20): past 131074 bytes, where
the spec leaves the accumulator's overflow open (R72), the sum is taken modulo 2^32. No command can form
such a sequence. -/
def sumWords : List Byte → Word → Word
  | [], acc => acc
  | [hi], acc => acc + (be16 hi 0).setWidth 32
  | hi :: lo :: rest, acc => sumWords rest (acc + (be16 hi lo).setWidth 32)

/-- One fold step (R70, R73): `zext_32(acc[31:16]) + zext_32(acc[15:0])`. -/
def foldStep (acc : Word) : Word :=
  (acc.extractLsb' 16 16).setWidth 32 + (acc.extractLsb' 0 16).setWidth 32

/-- The fold loop "while `acc[31:16] != 0`" (R70), run for at most `n` steps. -/
def foldLoop : Nat → Word → Word
  | 0, acc => acc
  | n + 1, acc => if acc.extractLsb' 16 16 = 0 then acc else foldLoop n (foldStep acc)

/-- The fold (R73): the loop needs at most two steps on any 32-bit value (log entry 11). -/
def fold (acc : Word) : Word := foldLoop 2 acc

/-- `cksum16` (R70): sum, fold, and take the 16-bit NOT (R74). -/
def cksum16 (bs : List Byte) : Half := ~~~ (fold (sumWords bs 0)).extractLsb' 0 16

/-- The bytes of the window `[CK_OFF, CK_OFF + CK_LEN)` of `FRAME` (R76). -/
def State.window (s : State) : List Byte := s.bytes .frame s.ckOff.toNat s.ckLen.toNat

/-- `CKSUM` (R76). The sum `off + cnt` is taken on natural numbers, without wrap. -/
def cksumCommand (P : Params) (s : State) : State :=
  if P.frameCap < s.flen.toNat then s.raise .lengthRange
  else if s.flen.toNat < s.ckOff.toNat + s.ckLen.toNat then s.raise .lengthRange
  else (s.setCsum (cksum16 s.window)).succeed

/-- The meaning of `CKSUM` (R76) on the instance with the parameters `P` (R5). -/
def execCksumAt (P : Params) (s : State) : Host.Outcome State Fault Refusal := .next (cksumCommand P s)

/-- The meaning of `CKSUM` (R76) on the default instance. -/
def execCksum (s : State) : Host.Outcome State Fault Refusal := execCksumAt Config.params s

end Sys2Proof.Machine
end

