-- ==== Sys2Proof/Machine/Codec.lean ====
section
/-! DEFINITION. The ICMP codec (spec/41_codec.md): the functions `parse_dgram` (R82 to R86) and `serialize_msg`
(R88), the commands `PARSE` (R87) and `SERIALIZE` (R89). -/

namespace Sys2Proof.Machine

/-- What `parse_dgram` returns: an error or a message (R82). -/
inductive ParseResult where
  | error (e : CmdError)
  | message (m : IcmpMessage)
deriving DecidableEq, Repr

/-- The message of a datagram of at least 28 bytes (R84, R85): the first 20 bytes are taken to be the IP
header and the rest is the segment. Nothing but these bytes is looked at (R86). -/
def messageOf (d : List Byte) : IcmpMessage :=
  let seg := d.drop 20
  { ttl := d.getD 8 0
    source := le32 (d.getD 12 0) (d.getD 13 0) (d.getD 14 0) (d.getD 15 0)
    destination := le32 (d.getD 16 0) (d.getD 17 0) (d.getD 18 0) (d.getD 19 0)
    type := seg.getD 0 0
    code := seg.getD 1 0
    checksum := be16 (seg.getD 2 0) (seg.getD 3 0)
    identifier := be16 (seg.getD 4 0) (seg.getD 5 0)
    sequenceNumber := be16 (seg.getD 6 0) (seg.getD 7 0)
    payload := seg.drop 8 }

/-- `parse_dgram` (R82): the two length checks of R83 in their order, then the fields. -/
def parseDgram (d : List Byte) : ParseResult :=
  if d.length < 20 then .error .truncatedIpHeader
  else if (d.drop 20).length < 8 then .error .truncatedIcmpHeader
  else .message (messageOf d)

/-- `PARSE` (R87). -/
def parseCommand (P : Params) (s : State) : State :=
  if P.frameCap < s.flen.toNat then s.raise .lengthRange
  else
    match parseDgram (s.bytes .frame 0 s.flen.toNat) with
    | .error e => s.raise e
    | .message m =>
      (((s.setMessage m).setPlen (BitVec.ofNat 16 (s.flen.toNat - 28))).storeBytes .payload 0 m.payload).succeed

/-- The meaning of `PARSE` (R87) on the instance with the parameters `P` (R5). -/
def execParseAt (P : Params) (s : State) : Host.Outcome State Fault Refusal := .next (parseCommand P s)

/-- The meaning of `PARSE` (R87) on the default instance. -/
def execParse (s : State) : Host.Outcome State Fault Refusal := execParseAt Config.params s

/-- The segment of a message with the checksum field held at zero (the `z` of R88 and R91). -/
def zeroedSegment (m : IcmpMessage) : List Byte :=
  [m.type, m.code, 0, 0, hi8 m.identifier, lo8 m.identifier, hi8 m.sequenceNumber, lo8 m.sequenceNumber]
    ++ m.payload

/-- `serialize_msg` (R88): the checksum over the zeroed segment, written into bytes 2 and 3. -/
def serializeMsg (m : IcmpMessage) : List Byte :=
  ((zeroedSegment m).set 2 (hi8 (cksum16 (zeroedSegment m)))).set 3 (lo8 (cksum16 (zeroedSegment m)))

/-- `SERIALIZE` (R89). `CSUM` takes the checksum just embedded. -/
def serializeCommand (P : Params) (s : State) : State :=
  if P.payCap < s.plen.toNat then s.raise .lengthRange
  else
    let out := serializeMsg s.message
    (((s.storeBytes .frame 0 out).setFlen (BitVec.ofNat 16 (8 + s.plen.toNat))).setCsum
      (be16 (out.getD 2 0) (out.getD 3 0))).succeed

/-- The meaning of `SERIALIZE` (R89) on the instance with the parameters `P` (R5). -/
def execSerializeAt (P : Params) (s : State) : Host.Outcome State Fault Refusal := .next (serializeCommand P s)

/-- The meaning of `SERIALIZE` (R89) on the default instance. -/
def execSerialize (s : State) : Host.Outcome State Fault Refusal := execSerializeAt Config.params s

end Sys2Proof.Machine
end

