-- ==== Sys2Proof/Machine/Control.lean ====
section
/-! DEFINITION. The control commands (spec/42_control.md): `NOP` (R99) and `SRST` (R100). -/

namespace Sys2Proof.Machine

/-- The meaning of `NOP` (R99): `ERR <- 0`, nothing else. -/
def execNop (s : State) : Host.Outcome State Fault Refusal := .next s.succeed

/-- The meaning of `SRST` (R100): every storage register to its reset value, the buffers kept. -/
def execSrst (s : State) : Host.Outcome State Fault Refusal := .next s.clearRegs

end Sys2Proof.Machine
end

