-- ==== Sys2Proof/Machine/Bus.lean ====
section
/-! DEFINITION. The host's actions on the block: the accesses of spec/20_memory.md R39 to R43, the command a
write to `CMD` starts (spec/10_state.md R17, spec/30_encoding.md R56), and hardware reset
(spec/70_reset_and_hazards.md R115). Everything here takes the parameters of spec/00_scope.md R5 as an
argument; `step` runs it at the defaults. -/

namespace Sys2Proof.Machine

/-- The effect of a command on the instance with the parameters `P` (R5); `exec` is this at the defaults. -/
def execAt (P : Params) (i : Instr) (s : State) : Host.Outcome State Fault Refusal :=
  match i with
  | .nop => execNop s
  | .cksum => execCksumAt P s
  | .parse => execParseAt P s
  | .serialize => execSerializeAt P s
  | .srst => execSrst s

/-- A write of the word `w` to `CMD` (R17, R40): the command it decodes to, as one atomic step (R49); a
reserved word raises `IllegalCommand` before any register is read (R56, R107, R109). -/
def runCommand (P : Params) (w : Word) (s : State) : Host.Outcome State Fault Refusal :=
  match decode w with
  | .command i => execAt P i s
  | .reserved _ => .next (s.raise .illegalCommand)

/-- `MemRead(a, size)` (R39, R41): the reply, and nothing else changes; `busError` by R43. -/
def hostRead (P : Params) (a : Addr) (size : Nat) (s : State) : Host.Outcome State Fault Refusal :=
  match locate P a.toNat size with
  | some (.reg r) => .next (s.setReply (.word (readReg P r s)))
  | some (.byte b i) => .next (s.setReply (.byte (s.byte b i)))
  | none => .refused (.busError a size)

/-- `MemWrite(a, size, v)` (R40, R42): a register other than `CMD` is written, `CMD` runs a command, a buffer
takes the byte `v[7:0]` (log entry 10); `busError` by R43. -/
def hostWrite (P : Params) (a : Addr) (size : Nat) (v : Word) (s : State) : Host.Outcome State Fault Refusal :=
  match locate P a.toNat size with
  | some (.reg .CMD) => runCommand P v s
  | some (.reg r) => .next (writeReg r v s)
  | some (.byte b i) => .next (s.storeByte b i (v.setWidth 8))
  | none => .refused (.busError a size)

/-- One action of the host. -/
def perform (P : Params) (act : HostAction) (s : State) : Host.Outcome State Fault Refusal :=
  match act with
  | .read a size => hostRead P a size s
  | .write a size v => hostWrite P a size v s
  | .reset => .next s.hardwareReset

/-- One step of the instance with the parameters `P` (R5): the next action of the host, carried out whole
(spec/20_memory.md R49, R50). Without one the block does nothing: it waits and keeps all state
(spec/00_scope.md R11, spec/70_reset_and_hazards.md R116, log entry 5). -/
def stepAt (P : Params) (s : State) : Host.Outcome State Fault Refusal :=
  match s.pending with
  | [] => .next s
  | act :: rest => perform P act (s.begin rest .completed)

/-- The action that runs the command of word `w`: a 4-byte write to `CMD` (R63, `cmd M`). -/
def commandWrite (P : Params) (w : Word) : HostAction := .write (regAddr P .CMD) 4 w

end Sys2Proof.Machine
end

