-- ==== Sys2Proof/Machine/Step.lean ====
section
/-! DEFINITION. One step of the machine: the next action of the host, carried out whole (spec/20_memory.md R49,
R50). ICE has no program counter and fetches nothing (spec/10_state.md R14); the sequence of commands
is the sequence of the host's writes to `CMD`, which stands in `State.pending` (log entry 4). -/

namespace Sys2Proof.Machine

/-- One step of the machine that runs: the instance with the default parameters of R5 (log entry 1). -/
def step (s : State) : Host.Outcome State Fault Refusal := stepAt Config.params s

/-- The state whose very next step is the host's write of the command word `w` to `CMD`: that action comes
before the host's other actions, and nothing else changes (log entry 4). -/
def State.withFetchWord (s : State) (nbits w : Nat) : State :=
  { s with pending := commandWrite Config.params (tableWord nbits w) :: s.pending }

end Sys2Proof.Machine
end

