-- ==== Sys2Proof/Machine/Instance.lean ====
section
/-! DEFINITION. The machine as a function of the parameters of spec/00_scope.md R5: one machine for each legal
choice of them. The host's machine `Sys2Proof.core` is the one at the defaults (log entry 1). -/

namespace Sys2Proof.Machine

/-- The instance with the parameters `P`, the argument of the model that R5 asks for. Reset is the same for
all of them: no reset value of R37 that State holds depends on a parameter. -/
def coreAt (P : Params) : Host.Core :=
  { State := State, Fault := Fault, Refusal := Refusal, step := stepAt P, reset := State.reset }

end Sys2Proof.Machine
end

