-- ==== Sys2Proof/Machine/HostNotation.lean ====
section
/-! DEFINITION. The host notation (spec/30_encoding.md R63, R64) as the bus transfers it stands for (R65). -/

namespace Sys2Proof.Machine

/-- `wr NAME, v`. -/
def wrAction (P : Params) (r : RegName) (v : Word) : HostAction := .write (regAddr P r) 4 v

/-- `rd NAME`. -/
def rdAction (P : Params) (r : RegName) : HostAction := .read (regAddr P r) 4

/-- `wrb FRAME[i], v` or `wrb PAYLOAD[i], v`. -/
def wrbAction (P : Params) (b : Buf) (i : Nat) (v : Byte) : HostAction :=
  .write (byteAddr P b i) 1 (v.setWidth 32)

/-- `rdb FRAME[i]` or `rdb PAYLOAD[i]`. -/
def rdbAction (P : Params) (b : Buf) (i : Nat) : HostAction := .read (byteAddr P b i) 1

/-- `cmd M`: the write of the command word to `CMD`. -/
def cmdAction (P : Params) (i : Instr) : HostAction := .write (regAddr P .CMD) 4 (encode i)

/-- `fill FRAME[k], b0 ... b(n-1)` or the same on `PAYLOAD` (R64). -/
def fillActions (P : Params) (b : Buf) : Nat → List Byte → List HostAction
  | _, [] => []
  | k, v :: vs => wrbAction P b k v :: fillActions P b (k + 1) vs

/-- `dump FRAME[k], n` or the same on `PAYLOAD` (R64). -/
def dumpActions (P : Params) (b : Buf) : Nat → Nat → List HostAction
  | _, 0 => []
  | k, n + 1 => rdbAction P b k :: dumpActions P b (k + 1) n

/-- `ldf bs` (R64). -/
def ldfActions (P : Params) (bs : List Byte) : List HostAction :=
  fillActions P .frame 0 bs ++ [wrAction P .FLEN (BitVec.ofNat 32 bs.length)]

/-- `ldp bs` (R64). -/
def ldpActions (P : Params) (bs : List Byte) : List HostAction :=
  fillActions P .payload 0 bs ++ [wrAction P .PLEN (BitVec.ofNat 32 bs.length)]

/-- `cksum k, n` (R64). -/
def cksumActions (P : Params) (k n : Word) : List HostAction :=
  [wrAction P .CK_OFF k, wrAction P .CK_LEN n, cmdAction P .cksum]

/-- The accesses a statement stands for (R63, R64). -/
def expand (P : Params) : HostStmt → List HostAction
  | .wr r v => [wrAction P r v]
  | .rd r => [rdAction P r]
  | .wrb b i v => [wrbAction P b i v]
  | .rdb b i => [rdbAction P b i]
  | .cmd i => [cmdAction P i]
  | .fill b k bs => fillActions P b k bs
  | .ldf bs => ldfActions P bs
  | .ldp bs => ldpActions P bs
  | .cksum k n => cksumActions P k n
  | .dump b k n => dumpActions P b k n

/-- The accesses of a host program: its statements in order (R50). -/
def expandAll (P : Params) : List HostStmt → List HostAction
  | [] => []
  | st :: sts => expand P st ++ expandAll P sts

end Sys2Proof.Machine
end

