-- ==== Sys2Proof/Safety.lean ====
section
/-! DEFINITION. The terms the claims are stated in: what stays unchanged, what a host sees of a bus error, and
the words of a byte sequence as numbers (spec/40_checksum.md R71, R72). -/

namespace Sys2Proof.Machine

/-- The block's state of R13 is the same in `s` and `t`: only the model's own `pending` and `reply` may
differ. -/
def SameBlock (s t : State) : Prop := t = { s with pending := t.pending, reply := t.reply }

/-- Every register outside `rs` reads in `t` as it reads in `s`. -/
def RegsKept (rs : List RegName) (s t : State) : Prop :=
  ∀ r, r ∉ rs → readReg Config.params r t = readReg Config.params r s

/-- Every byte of buffer `b` at an index outside `stored` reads in `t` as it reads in `s`. -/
def BytesKept (b : Buf) (stored : Nat → Prop) (s t : State) : Prop :=
  ∀ i, ¬ stored i → t.byte b i = s.byte b i

/-- The model's own fields are unchanged. -/
def OwnKept (s t : State) : Prop := t.resets = s.resets ∧ t.pending = s.pending ∧ t.reply = s.reply

/-- The bus address `a` with access size `n` is mapped under the default parameters (R15, R38): a register
word, or a byte of one of the buffers. -/
def Mapped (a : Addr) (n : Nat) : Prop :=
  (n = 4 ∧ a.toNat % 4 = 0 ∧ (a.toNat ≤ 0x18 ∨ (0x20 ≤ a.toNat ∧ a.toNat ≤ 0x48)))
    ∨ (n = 1 ∧ 0x10000 ≤ a.toNat ∧ a.toNat < 0x10000 + 2000)
    ∨ (n = 1 ∧ 0x20000 ≤ a.toNat ∧ a.toNat < 0x20000 + 1992)

/-- The state in which the host goes on after its next action: the step's next state, or, after a refusal (a
bus error, R43), the state unchanged but for the host's list and the error reported to it (log entry 6). -/
def hostStep (s : State) : State :=
  match step s with
  | .next t => t
  | .fault _ => s
  | .refused _ => s.begin s.pending.tail .busError

/-- `k` steps, stopping at the first fault or refusal. -/
def runSteps : Nat → State → Host.Outcome State Fault Refusal
  | 0, s => .next s
  | k + 1, s =>
    match step s with
    | .next t => runSteps k t
    | .fault r => .fault r
    | .refused r => .refused r

/-- A run is safe when none of its host actions is a bus error: each of the next `k` steps answers a next
state. -/
def SafeFor (k : Nat) (s : State) : Prop := ∃ t, runSteps k s = .next t

/-- The 16-bit words of a byte sequence (R71): big-endian pairs from the first byte, an odd last byte being
the high byte of a word whose low byte is zero. -/
def wordsOf : List Byte → List Half
  | [] => []
  | [hi] => [be16 hi 0]
  | hi :: lo :: rest => be16 hi lo :: wordsOf rest

/-- The sum of the words as a natural number (R72, R78). -/
def wordSum (bs : List Byte) : Nat := ((wordsOf bs).map BitVec.toNat).sum

/-- A byte sequence with its bytes `k` and `k + 1` set to the two bytes of `v`, high byte first. -/
def putHalf (bs : List Byte) (k : Nat) (v : Half) : List Byte := (bs.set k (hi8 v)).set (k + 1) (lo8 v)

/-- The 16-bit value of bytes `k` and `k + 1`, high byte first. -/
def getHalf (bs : List Byte) (k : Nat) : Half := be16 (bs.getD k 0) (bs.getD (k + 1) 0)

end Sys2Proof.Machine
end

