-- ==== Sys2Proof/Certificates/Slice0/Obligations.lean ====
section
/-! DEFINITION. The statements for the provers. Each docstring names the rule of spec/ it formalises. -/

open Sys2Proof Sys2Proof.Machine

/-! ### Encoding -/

/-- R55: the five command words of the table decode to their commands. -/
def Obligations.CommandWordsDecodeAsTabled : Prop :=
  decode 0x00000000 = .command .nop ∧ decode 0x00000001 = .command .cksum
    ∧ decode 0x00000002 = .command .parse ∧ decode 0x00000003 = .command .serialize
    ∧ decode 0x00000004 = .command .srst

/-- R54: over all 2^32 words, a word decodes to a (well-formed) command exactly when it is that command's
encoding, the encodings being the opcode values; a word with a bit of 31:8 set is reserved, and so is one
whose operation code is above 4. -/
def Obligations.DecodeComparesTheWholeWord : Prop :=
  (∀ (w : Word) (i : Instr), decode w = .command i ↔ i.wf = true ∧ encode i = w)
    ∧ (encode .nop = 0 ∧ encode .cksum = 1 ∧ encode .parse = 2 ∧ encode .serialize = 3 ∧ encode .srst = 4)
    ∧ (∀ w : Word, w.extractLsb 31 8 ≠ 0 → ∃ why, decode w = .reserved why)
    ∧ (∀ w : Word, 4 < (w.extractLsb 7 0).toNat → ∃ why, decode w = .reserved why)

/-- R56: a write of any word from `0x00000005` up to `CMD` sets `ERR` to 3 and changes nothing else. -/
def Obligations.ReservedWordRaisesIllegalCommand : Prop :=
  ∀ (s : State) (w : Word) (rest : List HostAction),
    s.pending = .write 0x00000 4 w :: rest → 5 ≤ w.toNat →
    ∃ t, step s = .next t ∧ readReg Config.params .STATUS t = 3 ∧ RegsKept [.STATUS] s t
      ∧ (∀ b, BytesKept b (fun _ => False) s t) ∧ t.resets = s.resets ∧ t.pending = rest

/-! ### The step -/

/-- R17, R40, R49: when the host's next action is the write of a word to `CMD` and the word decodes to a
command, the step is `exec` of that command at the state as it was before the write, with the action
taken off the host's list and the write's completion as the reply. The word that `withFetchWord` places
is run by the very next step. -/
def Obligations.StepRunsTheDecodedCommand : Prop :=
  (∀ (s : State) (w : Word) (rest : List HostAction) (i : Instr),
    s.pending = .write 0x00000 4 w :: rest → decode w = .command i → i.wf = true →
    step s = exec i { s with pending := rest, reply := .completed })
    ∧ ∀ (s : State) (nbits w : Nat) (i : Instr), decodeTableWord nbits w = some i →
      step (s.withFetchWord nbits w) = exec i { s with reply := .completed }

/-- R11, R116: without a host action the block does nothing and keeps all state. -/
def Obligations.BlockWaitsForTheHost : Prop :=
  ∀ s : State, s.pending = [] → step s = .next s

/-- R123, R126: every write to `CMD` completes, whatever the word and the state, and takes exactly that
action off the host's list; every command answers a next state from every state. -/
def Obligations.EveryCommandWriteCompletes : Prop :=
  (∀ (i : Instr) (s : State), ∃ t, exec i s = .next t)
    ∧ ∀ (s : State) (w : Word) (rest : List HostAction), s.pending = .write 0x00000 4 w :: rest →
      ∃ t, step s = .next t ∧ t.pending = rest

/-! ### Reset -/

/-- R37: what every register reads in the reset state. -/
def Obligations.ResetStateRegisters : Prop :=
  (∀ r ∈ [RegName.CMD, .STATUS, .FLEN, .PLEN, .CK_OFF, .CK_LEN, .CSUM, .TYPE, .CODE, .CHECKSUM, .IDENT, .SEQ,
      .TTL, .SRC, .DST], readReg Config.params r State.reset = 0)
    ∧ readReg Config.params .TCLASS State.reset = 2
    ∧ readReg Config.params .CAPS State.reset = 0x07C807D0
    ∧ readReg Config.params .ID State.reset = 0x49434D50

/-- R115, R116, R37: the hardware reset, taken from any state. Every register reads as in the reset state; each
buffer byte is the free value of this reset, which nothing constrains (the form of the free value is the
model's, log entry 3). -/
def Obligations.HardwareResetFromAnyState : Prop :=
  ∀ (s : State) (rest : List HostAction), s.pending = .reset :: rest →
    ∃ t, step s = .next t ∧ (∀ r, readReg Config.params r t = readReg Config.params r State.reset)
      ∧ (∀ b i, t.byte b i = Config.resetByte (s.resets + 1) b i) ∧ t.pending = rest

/-- R118 (which the spec marks as derived): every command is defined in the reset state: `CKSUM` gives `CSUM = 0xFFFF`, `PARSE` gives
`TruncatedIpHeader`, `SERIALIZE` gives the frame `00 00 FF FF 00 00 00 00` with `CSUM = 0xFFFF`. -/
def Obligations.CommandsAreDefinedInTheResetState : Prop :=
  (∃ t, exec .cksum State.reset = .next t ∧ readReg Config.params .STATUS t = 0
      ∧ readReg Config.params .CSUM t = 0xFFFF)
    ∧ (∃ t, exec .parse State.reset = .next t ∧ readReg Config.params .STATUS t = 0x11)
    ∧ ∃ t, exec .serialize State.reset = .next t ∧ readReg Config.params .STATUS t = 0
      ∧ readReg Config.params .FLEN t = 8 ∧ readReg Config.params .CSUM t = 0xFFFF
      ∧ t.bytes .frame 0 8 = [0x00, 0x00, 0xFF, 0xFF, 0x00, 0x00, 0x00, 0x00]

/-! ### Registers and the bus -/

/-- R16: a write to an `RW` register of width N stores the word modulo 2^N and touches nothing else (`TCLASS`,
a function of `TYPE`, follows a write to `TYPE`); a write to an `RO` register completes and changes no
state; a read returns the value zero-extended, below 2^N, and changes no state; `CMD` reads 0. -/
def Obligations.RegisterAccessTruncatesAndExtends : Prop :=
  ∀ (s : State) (r : RegName) (w : Word) (rest : List HostAction),
    (regAccess r = .readWrite → s.pending = .write (regAddr Config.params r) 4 w :: rest →
      ∃ t, step s = .next t
        ∧ readReg Config.params r t = BitVec.ofNat 32 (w.toNat % 2 ^ regWidth r)
        ∧ (∀ r', r' ≠ r → (r = .TYPE → r' ≠ .TCLASS) → readReg Config.params r' t = readReg Config.params r' s)
        ∧ (∀ b, BytesKept b (fun _ => False) s t) ∧ t.resets = s.resets ∧ t.pending = rest)
    ∧ (regAccess r = .readOnly → s.pending = .write (regAddr Config.params r) 4 w :: rest →
      step s = .next { s with pending := rest, reply := .completed })
    ∧ (s.pending = .read (regAddr Config.params r) 4 :: rest →
      step s = .next { s with pending := rest, reply := .word (readReg Config.params r s) }
        ∧ (readReg Config.params r s).toNat < 2 ^ regWidth r
        ∧ (r = .CMD → readReg Config.params r s = 0))

/-- R32: for all legal parameters `TCLASS` reads 1, 2, 3 for the three recognised types and 0 for every other
one, a function of `TYPE` alone; with the defaults the three types are 8, 0 and 11 (numbers the spec marks as
general knowledge, log entry 2). Where the request or the expired type is 0 this differs from the reset column
of R15 (the model's choice, log entry 21). -/
def Obligations.TclassIsTheClassOfType : Prop :=
  (∀ (P : Params) (s : State), P.wf = true →
    (s.type = P.typeEchoRequest → readReg P .TCLASS s = 1)
      ∧ (s.type = P.typeEchoReply → readReg P .TCLASS s = 2)
      ∧ (s.type = P.typeTtlExpired → readReg P .TCLASS s = 3)
      ∧ (s.type ≠ P.typeEchoRequest → s.type ≠ P.typeEchoReply → s.type ≠ P.typeTtlExpired →
        readReg P .TCLASS s = 0))
    ∧ Config.params.wf = true ∧ Config.params.typeEchoRequest = 8 ∧ Config.params.typeEchoReply = 0
    ∧ Config.params.typeTtlExpired = 11

/-- R33, R34: for all legal parameters `CAPS` holds `FRAME_CAP` in bits 15:0 and `PAY_CAP` in bits 31:16 and `ID`
reads `BLOCK_ID`; the default instance reads `0x07C807D0` and `0x49434D50`. -/
def Obligations.CapsAndIdAreConstants : Prop :=
  (∀ (P : Params) (s : State), P.wf = true →
    ((readReg P .CAPS s).extractLsb 15 0).toNat = P.frameCap
      ∧ ((readReg P .CAPS s).extractLsb 31 16).toNat = P.frameCap - 8
      ∧ readReg P .ID s = P.blockId)
    ∧ ∀ s : State, readReg Config.params .CAPS s = 0x07C807D0 ∧ readReg Config.params .ID s = 0x49434D50

/-- R41, R42: a one-byte read of a mapped buffer address returns the byte and changes nothing; a one-byte write
stores its byte there and changes nothing else. -/
def Obligations.BufferBytesReadAndWrite : Prop :=
  ∀ (s : State) (a : Addr) (b : Buf) (i : Nat) (v : Byte) (rest : List HostAction),
    (b = .frame ∧ i < 2000 ∧ a.toNat = 0x10000 + i) ∨ (b = .payload ∧ i < 1992 ∧ a.toNat = 0x20000 + i) →
    (s.pending = .read a 1 :: rest →
      step s = .next { s with pending := rest, reply := .byte (s.byte b i) })
    ∧ (s.pending = .write a 1 (v.setWidth 32) :: rest →
      ∃ t, step s = .next t ∧ t.byte b i = v ∧ BytesKept b (fun k => k = i) s t
        ∧ (∀ b', b' ≠ b → BytesKept b' (fun _ => False) s t) ∧ RegsKept [] s t
        ∧ t.resets = s.resets ∧ t.pending = rest)

/-- R43: an access that is not mapped is refused as a bus error, and the host goes on from a block whose state
is unchanged (how the host goes on is the model's reading, log entry 6); a mapped access completes. -/
def Obligations.UnmappedAccessIsABusError : Prop :=
  ∀ (s : State) (a : Addr) (n : Nat) (v : Word) (rest : List HostAction),
    s.pending = .read a n :: rest ∨ s.pending = .write a n v :: rest →
    (¬ Mapped a n → step s = .refused (.busError a n) ∧ SameBlock s (hostStep s)
      ∧ (hostStep s).pending = rest ∧ (hostStep s).reply = .busError)
    ∧ (Mapped a n → ∃ t, step s = .next t ∧ t.pending = rest)

/-- R44: every host access but a hardware reset may be repeated: the second of two equal accesses in a row leaves
the block as the first left it, a write to `CMD` (any command, any reserved word) among them. -/
def Obligations.RepeatedAccessIsIdempotent : Prop :=
  ∀ (s t u : State) (act : HostAction) (rest : List HostAction),
    s.wf Config.params = true → s.pending = act :: act :: rest → act ≠ .reset →
    step s = .next t → step t = .next u → SameBlock t u

/-- R39, R41, R44: a read, of any size at any address, changes no state of the block. -/
def Obligations.ReadsChangeNoState : Prop :=
  ∀ (s : State) (a : Addr) (n : Nat) (rest : List HostAction),
    s.pending = .read a n :: rest → SameBlock s (hostStep s) ∧ (hostStep s).pending = rest

/-! ### Errors -/

/-- R60: `ERR` holds one of the codes 0 to 4, `MALFORMED` is 1 exactly for codes 1 and 2, and the other bits
read 0, in every state. -/
def Obligations.StatusReadsCodeAndClass : Prop :=
  (CmdError.none.errCode = 0 ∧ CmdError.truncatedIpHeader.errCode = 1
    ∧ CmdError.truncatedIcmpHeader.errCode = 2 ∧ CmdError.illegalCommand.errCode = 3
    ∧ CmdError.lengthRange.errCode = 4)
    ∧ ∀ s : State, (readReg Config.params .STATUS s).extractLsb 3 0 = s.status.errCode
      ∧ ((readReg Config.params .STATUS s).extractLsb 3 0).toNat ≤ 4
      ∧ ((readReg Config.params .STATUS s).extractLsb 4 4 = 1 ↔
          s.status = .truncatedIpHeader ∨ s.status = .truncatedIcmpHeader)
      ∧ (readReg Config.params .STATUS s).extractLsb 31 5 = 0

/-- R106: the state after a failed command is the state before it with `STATUS` replaced, for every command and
for every word written to `CMD`, the reserved ones among them, on every instance. -/
def Obligations.FailedCommandChangesStatusOnly : Prop :=
  (∀ (i : Instr) (s : State), ∃ t, exec i s = .next t
    ∧ (t.status ≠ .none → t = { s with status := t.status }))
    ∧ ∀ (P : Params) (w : Word) (s : State), ∃ t, runCommand P w s = .next t
      ∧ (t.status ≠ .none → t = { s with status := t.status })

/-- R108: the exact cases of `LengthRange`, the sum of `CKSUM` taken without wrap; `NOP` and `SRST` never raise
it. -/
def Obligations.LengthRangeExactlyAsListed : Prop :=
  ∀ s : State,
    (∃ t, exec .cksum s = .next t ∧ (readReg Config.params .STATUS t = 4 ↔
      2000 < s.flen.toNat ∨ s.flen.toNat < s.ckOff.toNat + s.ckLen.toNat))
    ∧ (∃ t, exec .parse s = .next t ∧ (readReg Config.params .STATUS t = 4 ↔ 2000 < s.flen.toNat))
    ∧ (∃ t, exec .serialize s = .next t ∧ (readReg Config.params .STATUS t = 4 ↔ 1992 < s.plen.toNat))
    ∧ (∃ t, exec .nop s = .next t ∧ readReg Config.params .STATUS t ≠ 4)
    ∧ ∃ t, exec .srst s = .next t ∧ readReg Config.params .STATUS t ≠ 4

/-- R104, R105: the length alone decides the two truncation errors of `PARSE`; from 28 up to the capacity it
succeeds. -/
def Obligations.ParseTruncationByLengthAlone : Prop :=
  ∀ s : State, ∃ t, exec .parse s = .next t
    ∧ (readReg Config.params .STATUS t = 0x11 ↔ s.flen.toNat ≤ 2000 ∧ s.flen.toNat < 20)
    ∧ (readReg Config.params .STATUS t = 0x12 ↔ 20 ≤ s.flen.toNat ∧ s.flen.toNat ≤ 27)
    ∧ (readReg Config.params .STATUS t = 0 ↔ 28 ≤ s.flen.toNat ∧ s.flen.toNat ≤ 2000)

/-- R18: `STATUS` changes only by a write to `CMD` (or a hardware reset). -/
def Obligations.OnlyCommandWritesChangeStatus : Prop :=
  ∀ s : State, (hostStep s).status ≠ s.status →
    ∃ rest, s.pending = .reset :: rest ∨ ∃ w, s.pending = .write 0x00000 4 w :: rest

/-- R110: `ERR` is not sticky: what a command leaves does not depend on the error before it. -/
def Obligations.StatusIsNotSticky : Prop :=
  ∀ (i : Instr) (s : State) (e : CmdError), exec i { s with status := e } = exec i s

/-! ### The checksum engine

The laws R72, R73 and R77 to R80 are inferences that the spec draws from R70 and marks as derived. -/

/-- R72: the sum of the words is at most `ceil(n / 2) * 0xFFFF`; up to 131074 bytes the 32-bit accumulator
does not wrap and holds that sum as a natural number; for the lengths ICE can be given, up to 65535 bytes,
the sum is at most `0x7FFF8000`. -/
def Obligations.AccumulatorNeverWraps : Prop :=
  ∀ bs : List Byte,
    wordSum bs ≤ (bs.length + 1) / 2 * 0xFFFF
    ∧ (bs.length ≤ 131074 → (sumWords bs 0).toNat = wordSum bs)
    ∧ (bs.length ≤ 65535 → wordSum bs ≤ 0x7FFF8000)

/-- R73: the facts of the fold: a step shrinks a value of at least `0x10000` and keeps a smaller one; one step
leaves at most `0x1FFFE`, and where a second is needed the high half is 1 and the low half at most `0xFFFE`; two
steps always suffice, so the loop of any larger bound gives the same; the value modulo `0xFFFF` is kept; zero
and `0xFFFF` arise exactly as listed. -/
def Obligations.FoldNeedsAtMostTwoSteps : Prop :=
  ∀ acc : Word,
    (0x10000 ≤ acc.toNat → (foldStep acc).toNat < acc.toNat)
    ∧ (acc.toNat < 0x10000 → foldStep acc = acc)
    ∧ (foldStep acc).toNat ≤ 0x1FFFE
    ∧ (0x10000 ≤ (foldStep acc).toNat →
      (foldStep acc).extractLsb 31 16 = 1 ∧ ((foldStep acc).extractLsb 15 0).toNat ≤ 0xFFFE)
    ∧ (fold acc).toNat < 0x10000
    ∧ fold acc = foldStep (foldStep acc)
    ∧ (∀ n, foldLoop (n + 2) acc = fold acc)
    ∧ (fold acc).toNat % 0xFFFF = acc.toNat % 0xFFFF
    ∧ (fold acc = 0 ↔ acc = 0)
    ∧ (0 < acc.toNat → ((fold acc).toNat = 0xFFFF ↔ acc.toNat % 0xFFFF = 0))

/-- R77: the result is `0xFFFF` exactly when every byte is zero, for every length at which the accumulator does
not wrap (R72; beyond it the source defines no result, and ICE cannot be given such a sequence); both
`0x0000` and `0xFFFF` occur. -/
def Obligations.ChecksumIsFFFFExactlyOnZeros : Prop :=
  (∀ bs : List Byte, bs.length ≤ 131074 → (cksum16 bs = 0xFFFF ↔ ∀ b ∈ bs, b = 0))
    ∧ cksum16 [0xFF, 0xFF] = 0x0000 ∧ cksum16 [] = 0xFFFF

/-- R78: the closed form of the checksum in terms of the natural-number sum of the words, for every length at
which the accumulator does not wrap (R72). -/
def Obligations.ChecksumClosedForm : Prop :=
  ∀ bs : List Byte, bs.length ≤ 131074 →
    (wordSum bs = 0 → cksum16 bs = 0xFFFF)
    ∧ (wordSum bs ≠ 0 → wordSum bs % 0xFFFF = 0 → cksum16 bs = 0x0000)
    ∧ (wordSum bs % 0xFFFF ≠ 0 → (cksum16 bs).toNat = 0xFFFF - wordSum bs % 0xFFFF)

/-- R79: a sequence whose checksum field, at any even position, was zero and then takes the checksum of the
sequence has the checksum `0x0000`. -/
def Obligations.StoredChecksumVerifies : Prop :=
  ∀ (bs : List Byte) (k : Nat), bs.length ≤ 65535 → k % 2 = 0 → k + 1 < bs.length →
    bs[k]? = some 0 → bs[k + 1]? = some 0 → cksum16 (putHalf bs k (cksum16 bs)) = 0x0000

/-- R80: equal sums of the words give equal checksums (K12 and K13 of spec/95_test_vectors.md are no permutation
of each other); so the checksum does not depend on the order of the words, nor on two zero bytes at the end,
nor on one zero byte after an odd length; it does depend on the order of the bytes in a word and on a leading
byte. Past 131074 bytes this rests on the model's choice that the accumulator wraps (log entry 20). -/
def Obligations.ChecksumOrderAndPadding : Prop :=
  (∀ bs bs' : List Byte, wordSum bs = wordSum bs' → cksum16 bs = cksum16 bs') ∧
  (∀ (ws ws' : List (Byte × Byte)) (tail : List Byte), ws.Perm ws' → tail.length ≤ 1 →
    cksum16 (ws.flatMap (fun p => [p.1, p.2]) ++ tail) = cksum16 (ws'.flatMap (fun p => [p.1, p.2]) ++ tail))
    ∧ (∀ bs : List Byte, cksum16 (bs ++ [0, 0]) = cksum16 bs)
    ∧ (∀ bs : List Byte, bs.length % 2 = 1 → cksum16 (bs ++ [0]) = cksum16 bs)
    ∧ (∃ a b : Byte, cksum16 [b, a] ≠ cksum16 [a, b])
    ∧ ∃ (b : Byte) (bs : List Byte), cksum16 bs ≠ cksum16 (b :: bs)

/-- R76: `CKSUM` on a window inside the frame puts the checksum of exactly its bytes into `CSUM`, clears `ERR`
and changes nothing else; otherwise it raises `LengthRange`, which changes `STATUS` only. -/
def Obligations.CksumSumsTheWindow : Prop :=
  decode 0x00000001 = .command .cksum
    ∧ ∀ s : State,
      (s.flen.toNat ≤ 2000 → s.ckOff.toNat + s.ckLen.toNat ≤ s.flen.toNat →
        ∃ t, exec .cksum s = .next t
          ∧ readReg Config.params .CSUM t
            = (cksum16 ((List.range s.ckLen.toNat).map fun k => s.byte .frame (s.ckOff.toNat + k))).setWidth 32
          ∧ readReg Config.params .STATUS t = 0 ∧ RegsKept [.CSUM, .STATUS] s t
          ∧ (∀ b, BytesKept b (fun _ => False) s t) ∧ OwnKept s t)
      ∧ (2000 < s.flen.toNat ∨ s.flen.toNat < s.ckOff.toNat + s.ckLen.toNat →
        exec .cksum s = .next { s with status := .lengthRange })

/-! ### The codec

The laws R90 to R94 are inferences that the spec draws from R82, R87, R88, R89 and R79 and marks as derived. -/

/-- R83: the length alone decides the outcome of `parse_dgram`. -/
def Obligations.ParseOutcomeByLength : Prop :=
  ∀ d : List Byte,
    (parseDgram d = .error .truncatedIpHeader ↔ d.length ≤ 19)
    ∧ (parseDgram d = .error .truncatedIcmpHeader ↔ 20 ≤ d.length ∧ d.length ≤ 27)
    ∧ ((∃ m, parseDgram d = .message m) ↔ 28 ≤ d.length)

/-- R58, R84, R86: only the bytes 8, 12 to 19 and those from 20 on enter the parse. -/
def Obligations.ParseIgnoresTheOtherHeaderBytes : Prop :=
  ∀ d d' : List Byte, d.length = d'.length →
    (∀ k, k = 8 ∨ 12 ≤ k → d[k]? = d'[k]?) → parseDgram d = parseDgram d'

/-- R87: `PARSE` on a frame of 28 bytes up to the capacity fills the eight message registers, `PLEN` and
`PAYLOAD[0..FLEN - 28)` from the bytes of the frame and changes nothing else; otherwise it raises the error
its length selects and changes `STATUS` only. -/
def Obligations.ParseFillsTheMessage : Prop :=
  decode 0x00000002 = .command .parse
    ∧ ∀ s : State,
      (28 ≤ s.flen.toNat → s.flen.toNat ≤ 2000 →
        ∃ t, exec .parse s = .next t
          ∧ readReg Config.params .TTL t = (s.byte .frame 8).setWidth 32
          ∧ readReg Config.params .SRC t
            = s.byte .frame 15 ++ s.byte .frame 14 ++ s.byte .frame 13 ++ s.byte .frame 12
          ∧ readReg Config.params .DST t
            = s.byte .frame 19 ++ s.byte .frame 18 ++ s.byte .frame 17 ++ s.byte .frame 16
          ∧ readReg Config.params .TYPE t = (s.byte .frame 20).setWidth 32
          ∧ readReg Config.params .CODE t = (s.byte .frame 21).setWidth 32
          ∧ readReg Config.params .CHECKSUM t = (s.byte .frame 22 ++ s.byte .frame 23).setWidth 32
          ∧ readReg Config.params .IDENT t = (s.byte .frame 24 ++ s.byte .frame 25).setWidth 32
          ∧ readReg Config.params .SEQ t = (s.byte .frame 26 ++ s.byte .frame 27).setWidth 32
          ∧ (readReg Config.params .PLEN t).toNat = s.flen.toNat - 28
          ∧ readReg Config.params .STATUS t = 0
          ∧ readReg Config.params .TCLASS t = (tclassOf Config.params (s.byte .frame 20)).setWidth 32
          ∧ (∀ k, k < s.flen.toNat - 28 → t.byte .payload k = s.byte .frame (28 + k))
          ∧ BytesKept .payload (fun k => k < s.flen.toNat - 28) s t
          ∧ BytesKept .frame (fun _ => False) s t
          ∧ RegsKept [.TTL, .SRC, .DST, .TYPE, .CODE, .CHECKSUM, .IDENT, .SEQ, .PLEN, .STATUS, .TCLASS] s t
          ∧ OwnKept s t)
      ∧ (2000 < s.flen.toNat → exec .parse s = .next { s with status := .lengthRange })
      ∧ (s.flen.toNat < 20 → exec .parse s = .next { s with status := .truncatedIpHeader })
      ∧ (20 ≤ s.flen.toNat → s.flen.toNat ≤ 27 →
        exec .parse s = .next { s with status := .truncatedIcmpHeader })

/-- R89: `SERIALIZE` of a payload that fits writes the segment with its checksum to `FRAME[0..8 + PLEN)`, sets
`FLEN` and `CSUM` and changes nothing else; otherwise it raises `LengthRange`, which changes `STATUS` only. -/
def Obligations.SerializeBuildsTheSegment : Prop :=
  decode 0x00000003 = .command .serialize
    ∧ ∀ s : State,
      (s.plen.toNat ≤ 1992 →
        ∃ t, exec .serialize s = .next t ∧ ∃ c : Half,
          c = cksum16 ([s.type, s.code, 0, 0, s.ident.extractLsb 15 8, s.ident.extractLsb 7 0,
            s.seq.extractLsb 15 8, s.seq.extractLsb 7 0]
              ++ (List.range s.plen.toNat).map fun k => s.byte .payload k)
          ∧ t.byte .frame 0 = s.type ∧ t.byte .frame 1 = s.code
          ∧ t.byte .frame 2 = c.extractLsb 15 8 ∧ t.byte .frame 3 = c.extractLsb 7 0
          ∧ t.byte .frame 4 = s.ident.extractLsb 15 8 ∧ t.byte .frame 5 = s.ident.extractLsb 7 0
          ∧ t.byte .frame 6 = s.seq.extractLsb 15 8 ∧ t.byte .frame 7 = s.seq.extractLsb 7 0
          ∧ (∀ k, k < s.plen.toNat → t.byte .frame (8 + k) = s.byte .payload k)
          ∧ BytesKept .frame (fun k => k < 8 + s.plen.toNat) s t
          ∧ BytesKept .payload (fun _ => False) s t
          ∧ (readReg Config.params .FLEN t).toNat = 8 + s.plen.toNat
          ∧ readReg Config.params .CSUM t = c.setWidth 32
          ∧ readReg Config.params .STATUS t = 0
          ∧ RegsKept [.FLEN, .CSUM, .STATUS] s t ∧ OwnKept s t)
      ∧ (1992 < s.plen.toNat → exec .serialize s = .next { s with status := .lengthRange })

/-- R90: the length law, of the function and of the two commands. -/
def Obligations.LengthLaw : Prop :=
  (∀ m : IcmpMessage, (serializeMsg m).length = 8 + m.payload.length)
    ∧ (∀ s : State, ∃ t, exec .serialize s = .next t
      ∧ (t.status = .none → t.flen.toNat = 8 + t.plen.toNat))
    ∧ ∀ s : State, ∃ t, exec .parse s = .next t ∧ (t.status = .none → t.plen.toNat = t.flen.toNat - 28)

/-- R91: the checksum of a serialized message with its bytes 2 and 3 zeroed is the one embedded there; on the
block, zeroing `FRAME[2]` and `FRAME[3]` after `SERIALIZE` and summing the frame gives `CSUM` again. -/
def Obligations.EmbeddedChecksumIsRecomputed : Prop :=
  (∀ m : IcmpMessage, cksum16 (putHalf (serializeMsg m) 2 0) = getHalf (serializeMsg m) 2)
    ∧ ∀ s t : State, exec .serialize s = .next t → t.status = .none →
      ∃ u, exec .cksum { (t.storeByte .frame 2 0).storeByte .frame 3 0 with ckOff := 0, ckLen := t.flen }
          = .next u ∧ u.status = .none ∧ u.csum = t.csum

/-- R92: a serialized message has the checksum `0x0000`; on the block, summing the frame after `SERIALIZE` gives
`CSUM = 0`, and so does summing the segment of a loaded datagram whose checksum field is right. -/
def Obligations.SerializedMessageVerifies : Prop :=
  (∀ m : IcmpMessage, m.payload.length ≤ 65527 → cksum16 (serializeMsg m) = 0x0000)
    ∧ (∀ s t : State, exec .serialize s = .next t → t.status = .none →
      ∃ u, exec .cksum { t with ckOff := 0, ckLen := t.flen } = .next u ∧ u.status = .none ∧ u.csum = 0)
    ∧ ∀ s : State, 28 ≤ s.flen.toNat → s.flen.toNat ≤ 2000 →
      getHalf (s.bytes .frame 20 (s.flen.toNat - 20)) 2
        = cksum16 (putHalf (s.bytes .frame 20 (s.flen.toNat - 20)) 2 0) →
      ∃ u, exec .cksum { s with ckOff := 20, ckLen := s.flen - 20 } = .next u ∧ u.status = .none
        ∧ u.csum = 0

/-- R93: parsing 20 header bytes followed by a serialized message returns the message, with the embedded checksum
and with the header's `ttl` and addresses; it is the message itself exactly when those four agree. -/
def Obligations.ParseOfSerializeReturnsTheMessage : Prop :=
  ∀ (m : IcmpMessage) (h : List Byte), h.length = 20 →
    parseDgram (h ++ serializeMsg m) = .message { m with
        checksum := cksum16 (putHalf (serializeMsg m) 2 0)
        ttl := h.getD 8 0
        source := le32 (h.getD 12 0) (h.getD 13 0) (h.getD 14 0) (h.getD 15 0)
        destination := le32 (h.getD 16 0) (h.getD 17 0) (h.getD 18 0) (h.getD 19 0) }
    ∧ (parseDgram (h ++ serializeMsg m) = .message m ↔
      m.checksum = cksum16 (putHalf (serializeMsg m) 2 0) ∧ m.ttl = h.getD 8 0
        ∧ m.source = le32 (h.getD 12 0) (h.getD 13 0) (h.getD 14 0) (h.getD 15 0)
        ∧ m.destination = le32 (h.getD 16 0) (h.getD 17 0) (h.getD 18 0) (h.getD 19 0))

/-- R94: serializing a parsed datagram gives its segment back but for the checksum field, which is recomputed;
the two agree exactly when the received field is the computed one; a field that verifies is the computed one,
or `0xFFFF` where `0x0000` was computed, and that exception does verify. (The segment has a length at which
the accumulator does not wrap, R72.) -/
def Obligations.SerializeOfParseReturnsTheSegment : Prop :=
  ∀ (d : List Byte) (m : IcmpMessage), (d.drop 20).length ≤ 131074 → parseDgram d = .message m →
    (serializeMsg m).length = (d.drop 20).length
    ∧ (∀ k, k ≠ 2 → k ≠ 3 → (serializeMsg m)[k]? = (d.drop 20)[k]?)
    ∧ getHalf (serializeMsg m) 2 = cksum16 (putHalf (d.drop 20) 2 0)
    ∧ (serializeMsg m = d.drop 20 ↔ getHalf (d.drop 20) 2 = cksum16 (putHalf (d.drop 20) 2 0))
    ∧ (getHalf (d.drop 20) 2 = cksum16 (putHalf (d.drop 20) 2 0) → cksum16 (d.drop 20) = 0x0000)
    ∧ (cksum16 (d.drop 20) = 0x0000 → getHalf (d.drop 20) 2 = cksum16 (putHalf (d.drop 20) 2 0)
      ∨ (cksum16 (putHalf (d.drop 20) 2 0) = 0x0000 ∧ getHalf (d.drop 20) 2 = 0xFFFF))
    ∧ (0 < wordSum (putHalf (d.drop 20) 2 0) → wordSum (putHalf (d.drop 20) 2 0) % 0xFFFF = 0 →
      cksum16 (putHalf (d.drop 20) 2 0) = 0x0000
        ∧ (getHalf (d.drop 20) 2 = 0xFFFF → cksum16 (d.drop 20) = 0x0000))

/-! ### The control commands -/

/-- R99: `NOP` clears `ERR` and changes nothing else, in every state. -/
def Obligations.NopOnlyClearsStatus : Prop :=
  decode 0x00000000 = .command .nop
    ∧ ∀ s : State, ∃ t, exec .nop s = .next t ∧ readReg Config.params .STATUS t = 0
      ∧ RegsKept [.STATUS] s t ∧ (∀ b, BytesKept b (fun _ => False) s t) ∧ OwnKept s t

/-- R100: `SRST` gives every storage register its reset value 0 and keeps every byte of both buffers; the
registers then read as after a hardware reset. -/
def Obligations.SoftResetClearsTheRegisters : Prop :=
  decode 0x00000004 = .command .srst
    ∧ ∀ s : State, ∃ t, exec .srst s = .next t
      ∧ (∀ r ∈ [RegName.STATUS, .FLEN, .PLEN, .CK_OFF, .CK_LEN, .CSUM, .TYPE, .CODE, .CHECKSUM, .IDENT, .SEQ,
          .TTL, .SRC, .DST], readReg Config.params r t = 0)
      ∧ (∀ r, readReg Config.params r t = readReg Config.params r State.reset)
      ∧ (∀ b, BytesKept b (fun _ => False) s t) ∧ OwnKept s t

/-! ### Whole-machine rules -/

/-- R57: no command writes outside its destination operands: the registers the table lists for it (and `TCLASS`
with `TYPE`), `PAYLOAD[0..FLEN - 28)` for a `PARSE` that succeeds, `FRAME[0..8 + PLEN)` for a `SERIALIZE`
that succeeds. -/
def Obligations.CommandsWriteOnlyTheirDestinations : Prop :=
  ∀ (i : Instr) (s : State), ∃ t, exec i s = .next t
    ∧ RegsKept
      (match i with
        | .nop => [.STATUS]
        | .cksum => [.CSUM, .STATUS]
        | .parse => [.TTL, .SRC, .DST, .TYPE, .TCLASS, .CODE, .CHECKSUM, .IDENT, .SEQ, .PLEN, .STATUS]
        | .serialize => [.FLEN, .CSUM, .STATUS]
        | .srst => [.STATUS, .FLEN, .PLEN, .CK_OFF, .CK_LEN, .CSUM, .TYPE, .TCLASS, .CODE, .CHECKSUM, .IDENT,
          .SEQ, .TTL, .SRC, .DST]) s t
    ∧ BytesKept .frame (fun k => i = .serialize ∧ s.plen.toNat ≤ 1992 ∧ k < 8 + s.plen.toNat) s t
    ∧ BytesKept .payload
      (fun k => i = .parse ∧ 28 ≤ s.flen.toNat ∧ s.flen.toNat ≤ 2000 ∧ k < s.flen.toNat - 28) s t
    ∧ OwnKept s t

/-- R35: no command reads a buffer byte at or above the current length: two states with equal registers and equal
bytes below `FLEN` and `PLEN` have, after any command, equal registers and equal bytes below the lengths the
command leaves. -/
def Obligations.CommandsNeverReadBeyondTheLengths : Prop :=
  ∀ (i : Instr) (s s' t t' : State),
    (∀ r, readReg Config.params r s = readReg Config.params r s') →
    (∀ k, k < s.flen.toNat → s.byte .frame k = s'.byte .frame k) →
    (∀ k, k < s.plen.toNat → s.byte .payload k = s'.byte .payload k) →
    exec i s = .next t → exec i s' = .next t' →
    (∀ r, readReg Config.params r t = readReg Config.params r t')
      ∧ (∀ k, k < t.flen.toNat → t.byte .frame k = t'.byte .frame k)
      ∧ ∀ k, k < t.plen.toNat → t.byte .payload k = t'.byte .payload k

/-- R35 (and log entry 8): every step keeps both buffers in canonical form, so no byte is ever held at an index a
buffer does not have, on the machine that runs and on every instance with legal parameters (R5); the host's
own way on after a bus error keeps it too. -/
def Obligations.EveryStepKeepsTheBuffersCanonical : Prop :=
  (∀ s t : State, s.wf Config.params = true → step s = .next t → t.wf Config.params = true)
    ∧ (∀ (P : Params) (s t : State), P.wf = true → s.wf P = true → stepAt P s = .next t → t.wf P = true)
    ∧ ∀ s : State, s.wf Config.params = true → (hostStep s).wf Config.params = true

/-- R37: the reset state is in canonical form. -/
def Obligations.ResetBuffersAreCanonical : Prop :=
  State.reset.wf Config.params = true

/-- R5: for every legal choice of the parameters, the commands keep the buffers inside their capacities, a full
frame parses, and `SERIALIZE` of a full payload fills the frame. -/
def Obligations.LegalParametersKeepBuffersInBounds : Prop :=
  ∀ (P : Params) (s : State), P.wf = true → s.wf P = true →
    (cksumCommand P s).wf P = true ∧ (parseCommand P s).wf P = true ∧ (serializeCommand P s).wf P = true
    ∧ (s.flen.toNat = P.frameCap → (parseCommand P s).status = .none
      ∧ (parseCommand P s).plen.toNat = P.frameCap - 28 ∧ P.frameCap - 28 < P.payCap)
    ∧ (s.plen.toNat = P.payCap → (serializeCommand P s).status = .none
      ∧ (serializeCommand P s).flen.toNat = P.frameCap)

/-! ### Every legal instance (R5) -/

/-- The model's choice (log entry 1; R5 only gives the defaults and does not say which instance runs): `exec`,
`step` and the host's machine are the parameterised ones at the default parameters of R5, which are legal. -/
def Obligations.MachineIsTheDefaultInstance : Prop :=
  Config.params.wf = true ∧ (∀ (i : Instr) (s : State), exec i s = execAt Config.params i s)
    ∧ (∀ s : State, step s = stepAt Config.params s) ∧ Sys2Proof.core = coreAt Config.params

/-- R5, R38, R63: on every instance with legal parameters, at the addresses its window bases give: a register
reads; a 4-byte write to `CMD` runs the word; a buffer byte below the capacity is read and written; the rest of
a buffer's window, and an access to it of another size than 1, are bus errors. (Which bases are legal is read
from R38 by inference, log entry 9.) -/
def Obligations.EveryLegalInstanceMapsItsWindows : Prop :=
  ∀ (P : Params) (s : State) (rest : List HostAction), P.wf = true →
    (∀ r, s.pending = .read (regAddr P r) 4 :: rest →
      stepAt P s = .next { s with pending := rest, reply := .word (readReg P r s) })
    ∧ (∀ w, s.pending = .write (regAddr P .CMD) 4 w :: rest →
      stepAt P s = runCommand P w { s with pending := rest, reply := .completed })
    ∧ (∀ b i, i < P.cap b → s.pending = .read (byteAddr P b i) 1 :: rest →
      stepAt P s = .next { s with pending := rest, reply := .byte (s.byte b i) })
    ∧ (∀ b i v, i < P.cap b → s.pending = .write (byteAddr P b i) 1 (v.setWidth 32) :: rest →
      ∃ t, stepAt P s = .next t ∧ t.byte b i = v ∧ BytesKept b (fun k => k = i) s t
        ∧ (∀ b', b' ≠ b → BytesKept b' (fun _ => False) s t) ∧ t.pending = rest)
    ∧ ∀ b i n, i < 0x10000 → n ≠ 1 ∨ P.cap b ≤ i → s.pending = .read (byteAddr P b i) n :: rest →
      stepAt P s = .refused (.busError (byteAddr P b i) n)

/-- R5, R76, R87, R89: on every instance with legal parameters the three contracts hold with its capacities:
`CKSUM` sums a window of a frame of at most `FRAME_CAP` bytes, `PARSE` leaves the message of `parse_dgram` or its
error, `SERIALIZE` of at most `PAY_CAP` bytes leaves the bytes of `serialize_msg`; outside them each raises
`LengthRange`; `NOP` and `SRST` succeed. -/
def Obligations.EveryLegalInstanceRunsTheContracts : Prop :=
  ∀ (P : Params) (s : State), P.wf = true →
    (s.flen.toNat ≤ P.frameCap → s.ckOff.toNat + s.ckLen.toNat ≤ s.flen.toNat →
      execAt P .cksum s
        = .next { s with status := .none, csum := cksum16 (s.bytes .frame s.ckOff.toNat s.ckLen.toNat) })
    ∧ (P.frameCap < s.flen.toNat ∨ s.flen.toNat < s.ckOff.toNat + s.ckLen.toNat →
      execAt P .cksum s = .next { s with status := .lengthRange })
    ∧ (s.flen.toNat ≤ P.frameCap → ∃ t, execAt P .parse s = .next t
      ∧ (parseDgram (s.bytes .frame 0 s.flen.toNat)
        = if t.status = .none then .message t.message else .error t.status)
      ∧ (t.status ≠ .none → t = { s with status := t.status })
      ∧ BytesKept .frame (fun _ => False) s t ∧ BytesKept .payload (fun k => k + 28 < s.flen.toNat) s t
      ∧ t.flen = s.flen ∧ t.csum = s.csum ∧ t.ckOff = s.ckOff ∧ t.ckLen = s.ckLen ∧ OwnKept s t)
    ∧ (P.frameCap < s.flen.toNat → execAt P .parse s = .next { s with status := .lengthRange })
    ∧ (s.plen.toNat ≤ P.frameCap - 8 → ∃ t, execAt P .serialize s = .next t ∧ t.status = .none
      ∧ t.flen.toNat = 8 + s.plen.toNat ∧ t.bytes .frame 0 t.flen.toNat = serializeMsg s.message
      ∧ t.csum = getHalf (serializeMsg s.message) 2 ∧ t.message = s.message
      ∧ BytesKept .frame (fun k => k < 8 + s.plen.toNat) s t ∧ BytesKept .payload (fun _ => False) s t
      ∧ t.ckOff = s.ckOff ∧ t.ckLen = s.ckLen ∧ OwnKept s t)
    ∧ (P.frameCap - 8 < s.plen.toNat → execAt P .serialize s = .next { s with status := .lengthRange })
    ∧ execAt P .nop s = .next { s with status := .none }
    ∧ ∃ t, execAt P .srst s = .next t ∧ (∀ r, readReg P r t = readReg P r State.reset)
      ∧ (∀ b, BytesKept b (fun _ => False) s t) ∧ OwnKept s t

/-! ### The pseudo-statements (R64) -/

/-- R63, R64: the accesses of `fill`, inside its buffer, write its bytes and change nothing else; those of `ldf` and
`ldp` do so from index 0 and set the length; those of `cksum k, n`, for any two 32-bit data, run `CKSUM` with
`CK_OFF` and `CK_LEN` the data modulo 2^16. -/
def Obligations.PseudoStatementsExpandAsTabled : Prop :=
  (∀ (s : State) (b : Buf) (k : Nat) (bs : List Byte), k + bs.length ≤ Config.params.cap b →
    s.pending = expandAll Config.params [.fill b k bs] →
    ∃ t, runSteps bs.length s = .next t ∧ t.pending = [] ∧ t.bytes b k bs.length = bs
      ∧ BytesKept b (fun i => k ≤ i ∧ i < k + bs.length) s t
      ∧ (∀ b', b' ≠ b → BytesKept b' (fun _ => False) s t) ∧ RegsKept [] s t)
  ∧ (∀ (s : State) (bs : List Byte), bs.length ≤ 2000 → s.pending = expandAll Config.params [.ldf bs] →
    ∃ t, runSteps (bs.length + 1) s = .next t ∧ t.pending = [] ∧ t.bytes .frame 0 bs.length = bs
      ∧ t.flen.toNat = bs.length ∧ BytesKept .frame (fun i => i < bs.length) s t
      ∧ BytesKept .payload (fun _ => False) s t ∧ RegsKept [.FLEN] s t)
  ∧ (∀ (s : State) (bs : List Byte), bs.length ≤ 1992 → s.pending = expandAll Config.params [.ldp bs] →
    ∃ t, runSteps (bs.length + 1) s = .next t ∧ t.pending = [] ∧ t.bytes .payload 0 bs.length = bs
      ∧ t.plen.toNat = bs.length ∧ BytesKept .payload (fun i => i < bs.length) s t
      ∧ BytesKept .frame (fun _ => False) s t ∧ RegsKept [.PLEN] s t)
  ∧ ∀ (s : State) (k n : Word), s.pending = expandAll Config.params [.cksum k n] →
    runSteps 3 s = exec .cksum
      { s with
        pending := []
        reply := .completed
        ckOff := BitVec.ofNat 16 (k.toNat % 65536)
        ckLen := BitVec.ofNat 16 (n.toNat % 65536) }

/-! ### The document's calls as host sequences (R66, which the spec marks as derived) -/

/-- R66, first row: `ldf bytes`; `cksum 0, len(bytes)`; `rd CSUM` returns the checksum of the bytes, from every
state. -/
def Obligations.ChecksumCallSequence : Prop :=
  ∀ (s : State) (bs : List Byte), bs.length ≤ 2000 →
    s.pending = expandAll Config.params
      [.ldf bs, .cksum 0 (BitVec.ofNat 32 bs.length), .rd .CSUM] →
    ∃ t, runSteps (bs.length + 5) s = .next t ∧ t.status = .none
      ∧ t.reply = .word ((cksum16 bs).setWidth 32) ∧ t.pending = []

/-- R66, second row: `ldf bytes`; `cmd PARSE` leaves in the message registers, `PLEN` and `PAYLOAD` the message
that `parse_dgram` returns on the bytes, or its error in `STATUS`, from every state. -/
def Obligations.ParseCallSequence : Prop :=
  ∀ (s : State) (bs : List Byte), bs.length ≤ 2000 →
    s.pending = expandAll Config.params [.ldf bs, .cmd .parse] →
    ∃ t, runSteps (bs.length + 2) s = .next t ∧ t.pending = []
      ∧ parseDgram bs = if t.status = .none then .message t.message else .error t.status

/-- R66, third row: writing the fields and the payload of a message and `cmd SERIALIZE` leaves in `FRAME` the
bytes of `serialize_msg`, from every state. -/
def Obligations.SerializeCallSequence : Prop :=
  ∀ (s : State) (m : IcmpMessage), m.payload.length ≤ 1992 →
    s.pending = expandAll Config.params
      [.wr .TYPE (m.type.setWidth 32), .wr .CODE (m.code.setWidth 32), .wr .IDENT (m.identifier.setWidth 32),
        .wr .SEQ (m.sequenceNumber.setWidth 32), .ldp m.payload, .cmd .serialize] →
    ∃ t, runSteps (m.payload.length + 6) s = .next t ∧ t.pending = [] ∧ t.status = .none
      ∧ t.bytes .frame 0 t.flen.toNat = serializeMsg m
end

