-- ==== Sys2Proof/Laws/State.lean ====
section
/-! SUPPORT. What each update of a state leaves in each field: one lemma per field per update, true by rfl. -/

namespace Sys2Proof.Machine

/-! ### `State.setStatus` -/

@[simp] theorem State.setStatus_status (s : State) (e : CmdError) : (s.setStatus e).status = e := rfl
@[simp] theorem State.setStatus_flen (s : State) (e : CmdError) : (s.setStatus e).flen = s.flen := rfl
@[simp] theorem State.setStatus_plen (s : State) (e : CmdError) : (s.setStatus e).plen = s.plen := rfl
@[simp] theorem State.setStatus_ckOff (s : State) (e : CmdError) : (s.setStatus e).ckOff = s.ckOff := rfl
@[simp] theorem State.setStatus_ckLen (s : State) (e : CmdError) : (s.setStatus e).ckLen = s.ckLen := rfl
@[simp] theorem State.setStatus_csum (s : State) (e : CmdError) : (s.setStatus e).csum = s.csum := rfl
@[simp] theorem State.setStatus_type (s : State) (e : CmdError) : (s.setStatus e).type = s.type := rfl
@[simp] theorem State.setStatus_code (s : State) (e : CmdError) : (s.setStatus e).code = s.code := rfl
@[simp] theorem State.setStatus_checksum (s : State) (e : CmdError) : (s.setStatus e).checksum = s.checksum := rfl
@[simp] theorem State.setStatus_ident (s : State) (e : CmdError) : (s.setStatus e).ident = s.ident := rfl
@[simp] theorem State.setStatus_seq (s : State) (e : CmdError) : (s.setStatus e).seq = s.seq := rfl
@[simp] theorem State.setStatus_ttl (s : State) (e : CmdError) : (s.setStatus e).ttl = s.ttl := rfl
@[simp] theorem State.setStatus_src (s : State) (e : CmdError) : (s.setStatus e).src = s.src := rfl
@[simp] theorem State.setStatus_dst (s : State) (e : CmdError) : (s.setStatus e).dst = s.dst := rfl
@[simp] theorem State.setStatus_frame (s : State) (e : CmdError) : (s.setStatus e).frame = s.frame := rfl
@[simp] theorem State.setStatus_payload (s : State) (e : CmdError) : (s.setStatus e).payload = s.payload := rfl
@[simp] theorem State.setStatus_resets (s : State) (e : CmdError) : (s.setStatus e).resets = s.resets := rfl
@[simp] theorem State.setStatus_pending (s : State) (e : CmdError) : (s.setStatus e).pending = s.pending := rfl
@[simp] theorem State.setStatus_reply (s : State) (e : CmdError) : (s.setStatus e).reply = s.reply := rfl

/-! ### `State.setFlen` -/

@[simp] theorem State.setFlen_status (s : State) (v : Half) : (s.setFlen v).status = s.status := rfl
@[simp] theorem State.setFlen_flen (s : State) (v : Half) : (s.setFlen v).flen = v := rfl
@[simp] theorem State.setFlen_plen (s : State) (v : Half) : (s.setFlen v).plen = s.plen := rfl
@[simp] theorem State.setFlen_ckOff (s : State) (v : Half) : (s.setFlen v).ckOff = s.ckOff := rfl
@[simp] theorem State.setFlen_ckLen (s : State) (v : Half) : (s.setFlen v).ckLen = s.ckLen := rfl
@[simp] theorem State.setFlen_csum (s : State) (v : Half) : (s.setFlen v).csum = s.csum := rfl
@[simp] theorem State.setFlen_type (s : State) (v : Half) : (s.setFlen v).type = s.type := rfl
@[simp] theorem State.setFlen_code (s : State) (v : Half) : (s.setFlen v).code = s.code := rfl
@[simp] theorem State.setFlen_checksum (s : State) (v : Half) : (s.setFlen v).checksum = s.checksum := rfl
@[simp] theorem State.setFlen_ident (s : State) (v : Half) : (s.setFlen v).ident = s.ident := rfl
@[simp] theorem State.setFlen_seq (s : State) (v : Half) : (s.setFlen v).seq = s.seq := rfl
@[simp] theorem State.setFlen_ttl (s : State) (v : Half) : (s.setFlen v).ttl = s.ttl := rfl
@[simp] theorem State.setFlen_src (s : State) (v : Half) : (s.setFlen v).src = s.src := rfl
@[simp] theorem State.setFlen_dst (s : State) (v : Half) : (s.setFlen v).dst = s.dst := rfl
@[simp] theorem State.setFlen_frame (s : State) (v : Half) : (s.setFlen v).frame = s.frame := rfl
@[simp] theorem State.setFlen_payload (s : State) (v : Half) : (s.setFlen v).payload = s.payload := rfl
@[simp] theorem State.setFlen_resets (s : State) (v : Half) : (s.setFlen v).resets = s.resets := rfl
@[simp] theorem State.setFlen_pending (s : State) (v : Half) : (s.setFlen v).pending = s.pending := rfl
@[simp] theorem State.setFlen_reply (s : State) (v : Half) : (s.setFlen v).reply = s.reply := rfl

/-! ### `State.setPlen` -/

@[simp] theorem State.setPlen_status (s : State) (v : Half) : (s.setPlen v).status = s.status := rfl
@[simp] theorem State.setPlen_flen (s : State) (v : Half) : (s.setPlen v).flen = s.flen := rfl
@[simp] theorem State.setPlen_plen (s : State) (v : Half) : (s.setPlen v).plen = v := rfl
@[simp] theorem State.setPlen_ckOff (s : State) (v : Half) : (s.setPlen v).ckOff = s.ckOff := rfl
@[simp] theorem State.setPlen_ckLen (s : State) (v : Half) : (s.setPlen v).ckLen = s.ckLen := rfl
@[simp] theorem State.setPlen_csum (s : State) (v : Half) : (s.setPlen v).csum = s.csum := rfl
@[simp] theorem State.setPlen_type (s : State) (v : Half) : (s.setPlen v).type = s.type := rfl
@[simp] theorem State.setPlen_code (s : State) (v : Half) : (s.setPlen v).code = s.code := rfl
@[simp] theorem State.setPlen_checksum (s : State) (v : Half) : (s.setPlen v).checksum = s.checksum := rfl
@[simp] theorem State.setPlen_ident (s : State) (v : Half) : (s.setPlen v).ident = s.ident := rfl
@[simp] theorem State.setPlen_seq (s : State) (v : Half) : (s.setPlen v).seq = s.seq := rfl
@[simp] theorem State.setPlen_ttl (s : State) (v : Half) : (s.setPlen v).ttl = s.ttl := rfl
@[simp] theorem State.setPlen_src (s : State) (v : Half) : (s.setPlen v).src = s.src := rfl
@[simp] theorem State.setPlen_dst (s : State) (v : Half) : (s.setPlen v).dst = s.dst := rfl
@[simp] theorem State.setPlen_frame (s : State) (v : Half) : (s.setPlen v).frame = s.frame := rfl
@[simp] theorem State.setPlen_payload (s : State) (v : Half) : (s.setPlen v).payload = s.payload := rfl
@[simp] theorem State.setPlen_resets (s : State) (v : Half) : (s.setPlen v).resets = s.resets := rfl
@[simp] theorem State.setPlen_pending (s : State) (v : Half) : (s.setPlen v).pending = s.pending := rfl
@[simp] theorem State.setPlen_reply (s : State) (v : Half) : (s.setPlen v).reply = s.reply := rfl

/-! ### `State.setCsum` -/

@[simp] theorem State.setCsum_status (s : State) (v : Half) : (s.setCsum v).status = s.status := rfl
@[simp] theorem State.setCsum_flen (s : State) (v : Half) : (s.setCsum v).flen = s.flen := rfl
@[simp] theorem State.setCsum_plen (s : State) (v : Half) : (s.setCsum v).plen = s.plen := rfl
@[simp] theorem State.setCsum_ckOff (s : State) (v : Half) : (s.setCsum v).ckOff = s.ckOff := rfl
@[simp] theorem State.setCsum_ckLen (s : State) (v : Half) : (s.setCsum v).ckLen = s.ckLen := rfl
@[simp] theorem State.setCsum_csum (s : State) (v : Half) : (s.setCsum v).csum = v := rfl
@[simp] theorem State.setCsum_type (s : State) (v : Half) : (s.setCsum v).type = s.type := rfl
@[simp] theorem State.setCsum_code (s : State) (v : Half) : (s.setCsum v).code = s.code := rfl
@[simp] theorem State.setCsum_checksum (s : State) (v : Half) : (s.setCsum v).checksum = s.checksum := rfl
@[simp] theorem State.setCsum_ident (s : State) (v : Half) : (s.setCsum v).ident = s.ident := rfl
@[simp] theorem State.setCsum_seq (s : State) (v : Half) : (s.setCsum v).seq = s.seq := rfl
@[simp] theorem State.setCsum_ttl (s : State) (v : Half) : (s.setCsum v).ttl = s.ttl := rfl
@[simp] theorem State.setCsum_src (s : State) (v : Half) : (s.setCsum v).src = s.src := rfl
@[simp] theorem State.setCsum_dst (s : State) (v : Half) : (s.setCsum v).dst = s.dst := rfl
@[simp] theorem State.setCsum_frame (s : State) (v : Half) : (s.setCsum v).frame = s.frame := rfl
@[simp] theorem State.setCsum_payload (s : State) (v : Half) : (s.setCsum v).payload = s.payload := rfl
@[simp] theorem State.setCsum_resets (s : State) (v : Half) : (s.setCsum v).resets = s.resets := rfl
@[simp] theorem State.setCsum_pending (s : State) (v : Half) : (s.setCsum v).pending = s.pending := rfl
@[simp] theorem State.setCsum_reply (s : State) (v : Half) : (s.setCsum v).reply = s.reply := rfl

/-! ### `State.setMessage` -/

@[simp] theorem State.setMessage_status (s : State) (m : IcmpMessage) : (s.setMessage m).status = s.status := rfl
@[simp] theorem State.setMessage_flen (s : State) (m : IcmpMessage) : (s.setMessage m).flen = s.flen := rfl
@[simp] theorem State.setMessage_plen (s : State) (m : IcmpMessage) : (s.setMessage m).plen = s.plen := rfl
@[simp] theorem State.setMessage_ckOff (s : State) (m : IcmpMessage) : (s.setMessage m).ckOff = s.ckOff := rfl
@[simp] theorem State.setMessage_ckLen (s : State) (m : IcmpMessage) : (s.setMessage m).ckLen = s.ckLen := rfl
@[simp] theorem State.setMessage_csum (s : State) (m : IcmpMessage) : (s.setMessage m).csum = s.csum := rfl
@[simp] theorem State.setMessage_type (s : State) (m : IcmpMessage) : (s.setMessage m).type = m.type := rfl
@[simp] theorem State.setMessage_code (s : State) (m : IcmpMessage) : (s.setMessage m).code = m.code := rfl
@[simp] theorem State.setMessage_checksum (s : State) (m : IcmpMessage) : (s.setMessage m).checksum = m.checksum := rfl
@[simp] theorem State.setMessage_ident (s : State) (m : IcmpMessage) : (s.setMessage m).ident = m.identifier := rfl
@[simp] theorem State.setMessage_seq (s : State) (m : IcmpMessage) : (s.setMessage m).seq = m.sequenceNumber := rfl
@[simp] theorem State.setMessage_ttl (s : State) (m : IcmpMessage) : (s.setMessage m).ttl = m.ttl := rfl
@[simp] theorem State.setMessage_src (s : State) (m : IcmpMessage) : (s.setMessage m).src = m.source := rfl
@[simp] theorem State.setMessage_dst (s : State) (m : IcmpMessage) : (s.setMessage m).dst = m.destination := rfl
@[simp] theorem State.setMessage_frame (s : State) (m : IcmpMessage) : (s.setMessage m).frame = s.frame := rfl
@[simp] theorem State.setMessage_payload (s : State) (m : IcmpMessage) : (s.setMessage m).payload = s.payload := rfl
@[simp] theorem State.setMessage_resets (s : State) (m : IcmpMessage) : (s.setMessage m).resets = s.resets := rfl
@[simp] theorem State.setMessage_pending (s : State) (m : IcmpMessage) : (s.setMessage m).pending = s.pending := rfl
@[simp] theorem State.setMessage_reply (s : State) (m : IcmpMessage) : (s.setMessage m).reply = s.reply := rfl

/-! ### `State.clearRegs` -/

@[simp] theorem State.clearRegs_status (s : State) : (s.clearRegs).status = .none := rfl
@[simp] theorem State.clearRegs_flen (s : State) : (s.clearRegs).flen = 0 := rfl
@[simp] theorem State.clearRegs_plen (s : State) : (s.clearRegs).plen = 0 := rfl
@[simp] theorem State.clearRegs_ckOff (s : State) : (s.clearRegs).ckOff = 0 := rfl
@[simp] theorem State.clearRegs_ckLen (s : State) : (s.clearRegs).ckLen = 0 := rfl
@[simp] theorem State.clearRegs_csum (s : State) : (s.clearRegs).csum = 0 := rfl
@[simp] theorem State.clearRegs_type (s : State) : (s.clearRegs).type = 0 := rfl
@[simp] theorem State.clearRegs_code (s : State) : (s.clearRegs).code = 0 := rfl
@[simp] theorem State.clearRegs_checksum (s : State) : (s.clearRegs).checksum = 0 := rfl
@[simp] theorem State.clearRegs_ident (s : State) : (s.clearRegs).ident = 0 := rfl
@[simp] theorem State.clearRegs_seq (s : State) : (s.clearRegs).seq = 0 := rfl
@[simp] theorem State.clearRegs_ttl (s : State) : (s.clearRegs).ttl = 0 := rfl
@[simp] theorem State.clearRegs_src (s : State) : (s.clearRegs).src = 0 := rfl
@[simp] theorem State.clearRegs_dst (s : State) : (s.clearRegs).dst = 0 := rfl
@[simp] theorem State.clearRegs_frame (s : State) : (s.clearRegs).frame = s.frame := rfl
@[simp] theorem State.clearRegs_payload (s : State) : (s.clearRegs).payload = s.payload := rfl
@[simp] theorem State.clearRegs_resets (s : State) : (s.clearRegs).resets = s.resets := rfl
@[simp] theorem State.clearRegs_pending (s : State) : (s.clearRegs).pending = s.pending := rfl
@[simp] theorem State.clearRegs_reply (s : State) : (s.clearRegs).reply = s.reply := rfl

/-! ### `State.raise` -/

@[simp] theorem State.raise_status (s : State) (e : CmdError) : (s.raise e).status = e := rfl
@[simp] theorem State.raise_flen (s : State) (e : CmdError) : (s.raise e).flen = s.flen := rfl
@[simp] theorem State.raise_plen (s : State) (e : CmdError) : (s.raise e).plen = s.plen := rfl
@[simp] theorem State.raise_ckOff (s : State) (e : CmdError) : (s.raise e).ckOff = s.ckOff := rfl
@[simp] theorem State.raise_ckLen (s : State) (e : CmdError) : (s.raise e).ckLen = s.ckLen := rfl
@[simp] theorem State.raise_csum (s : State) (e : CmdError) : (s.raise e).csum = s.csum := rfl
@[simp] theorem State.raise_type (s : State) (e : CmdError) : (s.raise e).type = s.type := rfl
@[simp] theorem State.raise_code (s : State) (e : CmdError) : (s.raise e).code = s.code := rfl
@[simp] theorem State.raise_checksum (s : State) (e : CmdError) : (s.raise e).checksum = s.checksum := rfl
@[simp] theorem State.raise_ident (s : State) (e : CmdError) : (s.raise e).ident = s.ident := rfl
@[simp] theorem State.raise_seq (s : State) (e : CmdError) : (s.raise e).seq = s.seq := rfl
@[simp] theorem State.raise_ttl (s : State) (e : CmdError) : (s.raise e).ttl = s.ttl := rfl
@[simp] theorem State.raise_src (s : State) (e : CmdError) : (s.raise e).src = s.src := rfl
@[simp] theorem State.raise_dst (s : State) (e : CmdError) : (s.raise e).dst = s.dst := rfl
@[simp] theorem State.raise_frame (s : State) (e : CmdError) : (s.raise e).frame = s.frame := rfl
@[simp] theorem State.raise_payload (s : State) (e : CmdError) : (s.raise e).payload = s.payload := rfl
@[simp] theorem State.raise_resets (s : State) (e : CmdError) : (s.raise e).resets = s.resets := rfl
@[simp] theorem State.raise_pending (s : State) (e : CmdError) : (s.raise e).pending = s.pending := rfl
@[simp] theorem State.raise_reply (s : State) (e : CmdError) : (s.raise e).reply = s.reply := rfl

/-! ### `State.succeed` -/

@[simp] theorem State.succeed_status (s : State) : (s.succeed).status = .none := rfl
@[simp] theorem State.succeed_flen (s : State) : (s.succeed).flen = s.flen := rfl
@[simp] theorem State.succeed_plen (s : State) : (s.succeed).plen = s.plen := rfl
@[simp] theorem State.succeed_ckOff (s : State) : (s.succeed).ckOff = s.ckOff := rfl
@[simp] theorem State.succeed_ckLen (s : State) : (s.succeed).ckLen = s.ckLen := rfl
@[simp] theorem State.succeed_csum (s : State) : (s.succeed).csum = s.csum := rfl
@[simp] theorem State.succeed_type (s : State) : (s.succeed).type = s.type := rfl
@[simp] theorem State.succeed_code (s : State) : (s.succeed).code = s.code := rfl
@[simp] theorem State.succeed_checksum (s : State) : (s.succeed).checksum = s.checksum := rfl
@[simp] theorem State.succeed_ident (s : State) : (s.succeed).ident = s.ident := rfl
@[simp] theorem State.succeed_seq (s : State) : (s.succeed).seq = s.seq := rfl
@[simp] theorem State.succeed_ttl (s : State) : (s.succeed).ttl = s.ttl := rfl
@[simp] theorem State.succeed_src (s : State) : (s.succeed).src = s.src := rfl
@[simp] theorem State.succeed_dst (s : State) : (s.succeed).dst = s.dst := rfl
@[simp] theorem State.succeed_frame (s : State) : (s.succeed).frame = s.frame := rfl
@[simp] theorem State.succeed_payload (s : State) : (s.succeed).payload = s.payload := rfl
@[simp] theorem State.succeed_resets (s : State) : (s.succeed).resets = s.resets := rfl
@[simp] theorem State.succeed_pending (s : State) : (s.succeed).pending = s.pending := rfl
@[simp] theorem State.succeed_reply (s : State) : (s.succeed).reply = s.reply := rfl

/-! ### `State.begin` -/

@[simp] theorem State.begin_status (s : State) (rest : List HostAction) (r : Reply) : (s.begin rest r).status = s.status := rfl
@[simp] theorem State.begin_flen (s : State) (rest : List HostAction) (r : Reply) : (s.begin rest r).flen = s.flen := rfl
@[simp] theorem State.begin_plen (s : State) (rest : List HostAction) (r : Reply) : (s.begin rest r).plen = s.plen := rfl
@[simp] theorem State.begin_ckOff (s : State) (rest : List HostAction) (r : Reply) : (s.begin rest r).ckOff = s.ckOff := rfl
@[simp] theorem State.begin_ckLen (s : State) (rest : List HostAction) (r : Reply) : (s.begin rest r).ckLen = s.ckLen := rfl
@[simp] theorem State.begin_csum (s : State) (rest : List HostAction) (r : Reply) : (s.begin rest r).csum = s.csum := rfl
@[simp] theorem State.begin_type (s : State) (rest : List HostAction) (r : Reply) : (s.begin rest r).type = s.type := rfl
@[simp] theorem State.begin_code (s : State) (rest : List HostAction) (r : Reply) : (s.begin rest r).code = s.code := rfl
@[simp] theorem State.begin_checksum (s : State) (rest : List HostAction) (r : Reply) : (s.begin rest r).checksum = s.checksum := rfl
@[simp] theorem State.begin_ident (s : State) (rest : List HostAction) (r : Reply) : (s.begin rest r).ident = s.ident := rfl
@[simp] theorem State.begin_seq (s : State) (rest : List HostAction) (r : Reply) : (s.begin rest r).seq = s.seq := rfl
@[simp] theorem State.begin_ttl (s : State) (rest : List HostAction) (r : Reply) : (s.begin rest r).ttl = s.ttl := rfl
@[simp] theorem State.begin_src (s : State) (rest : List HostAction) (r : Reply) : (s.begin rest r).src = s.src := rfl
@[simp] theorem State.begin_dst (s : State) (rest : List HostAction) (r : Reply) : (s.begin rest r).dst = s.dst := rfl
@[simp] theorem State.begin_frame (s : State) (rest : List HostAction) (r : Reply) : (s.begin rest r).frame = s.frame := rfl
@[simp] theorem State.begin_payload (s : State) (rest : List HostAction) (r : Reply) : (s.begin rest r).payload = s.payload := rfl
@[simp] theorem State.begin_resets (s : State) (rest : List HostAction) (r : Reply) : (s.begin rest r).resets = s.resets := rfl
@[simp] theorem State.begin_pending (s : State) (rest : List HostAction) (r : Reply) : (s.begin rest r).pending = rest := rfl
@[simp] theorem State.begin_reply (s : State) (rest : List HostAction) (r : Reply) : (s.begin rest r).reply = r := rfl

/-! ### `State.setReply` -/

@[simp] theorem State.setReply_status (s : State) (r : Reply) : (s.setReply r).status = s.status := rfl
@[simp] theorem State.setReply_flen (s : State) (r : Reply) : (s.setReply r).flen = s.flen := rfl
@[simp] theorem State.setReply_plen (s : State) (r : Reply) : (s.setReply r).plen = s.plen := rfl
@[simp] theorem State.setReply_ckOff (s : State) (r : Reply) : (s.setReply r).ckOff = s.ckOff := rfl
@[simp] theorem State.setReply_ckLen (s : State) (r : Reply) : (s.setReply r).ckLen = s.ckLen := rfl
@[simp] theorem State.setReply_csum (s : State) (r : Reply) : (s.setReply r).csum = s.csum := rfl
@[simp] theorem State.setReply_type (s : State) (r : Reply) : (s.setReply r).type = s.type := rfl
@[simp] theorem State.setReply_code (s : State) (r : Reply) : (s.setReply r).code = s.code := rfl
@[simp] theorem State.setReply_checksum (s : State) (r : Reply) : (s.setReply r).checksum = s.checksum := rfl
@[simp] theorem State.setReply_ident (s : State) (r : Reply) : (s.setReply r).ident = s.ident := rfl
@[simp] theorem State.setReply_seq (s : State) (r : Reply) : (s.setReply r).seq = s.seq := rfl
@[simp] theorem State.setReply_ttl (s : State) (r : Reply) : (s.setReply r).ttl = s.ttl := rfl
@[simp] theorem State.setReply_src (s : State) (r : Reply) : (s.setReply r).src = s.src := rfl
@[simp] theorem State.setReply_dst (s : State) (r : Reply) : (s.setReply r).dst = s.dst := rfl
@[simp] theorem State.setReply_frame (s : State) (r : Reply) : (s.setReply r).frame = s.frame := rfl
@[simp] theorem State.setReply_payload (s : State) (r : Reply) : (s.setReply r).payload = s.payload := rfl
@[simp] theorem State.setReply_resets (s : State) (r : Reply) : (s.setReply r).resets = s.resets := rfl
@[simp] theorem State.setReply_pending (s : State) (r : Reply) : (s.setReply r).pending = s.pending := rfl
@[simp] theorem State.setReply_reply (s : State) (r : Reply) : (s.setReply r).reply = r := rfl

/-! ### `State.hardwareReset` -/

@[simp] theorem State.hardwareReset_status (s : State) : (s.hardwareReset).status = .none := rfl
@[simp] theorem State.hardwareReset_flen (s : State) : (s.hardwareReset).flen = 0 := rfl
@[simp] theorem State.hardwareReset_plen (s : State) : (s.hardwareReset).plen = 0 := rfl
@[simp] theorem State.hardwareReset_ckOff (s : State) : (s.hardwareReset).ckOff = 0 := rfl
@[simp] theorem State.hardwareReset_ckLen (s : State) : (s.hardwareReset).ckLen = 0 := rfl
@[simp] theorem State.hardwareReset_csum (s : State) : (s.hardwareReset).csum = 0 := rfl
@[simp] theorem State.hardwareReset_type (s : State) : (s.hardwareReset).type = 0 := rfl
@[simp] theorem State.hardwareReset_code (s : State) : (s.hardwareReset).code = 0 := rfl
@[simp] theorem State.hardwareReset_checksum (s : State) : (s.hardwareReset).checksum = 0 := rfl
@[simp] theorem State.hardwareReset_ident (s : State) : (s.hardwareReset).ident = 0 := rfl
@[simp] theorem State.hardwareReset_seq (s : State) : (s.hardwareReset).seq = 0 := rfl
@[simp] theorem State.hardwareReset_ttl (s : State) : (s.hardwareReset).ttl = 0 := rfl
@[simp] theorem State.hardwareReset_src (s : State) : (s.hardwareReset).src = 0 := rfl
@[simp] theorem State.hardwareReset_dst (s : State) : (s.hardwareReset).dst = 0 := rfl
@[simp] theorem State.hardwareReset_frame (s : State) : (s.hardwareReset).frame = [] := rfl
@[simp] theorem State.hardwareReset_payload (s : State) : (s.hardwareReset).payload = [] := rfl
@[simp] theorem State.hardwareReset_resets (s : State) : (s.hardwareReset).resets = s.resets + 1 := rfl
@[simp] theorem State.hardwareReset_pending (s : State) : (s.hardwareReset).pending = s.pending := rfl
@[simp] theorem State.hardwareReset_reply (s : State) : (s.hardwareReset).reply = .none := rfl

/-! ### `State.setBuf` -/

@[simp] theorem State.setBuf_status (s : State) (b : Buf) (m : Memory) : (s.setBuf b m).status = s.status := by cases b <;> rfl
@[simp] theorem State.setBuf_flen (s : State) (b : Buf) (m : Memory) : (s.setBuf b m).flen = s.flen := by cases b <;> rfl
@[simp] theorem State.setBuf_plen (s : State) (b : Buf) (m : Memory) : (s.setBuf b m).plen = s.plen := by cases b <;> rfl
@[simp] theorem State.setBuf_ckOff (s : State) (b : Buf) (m : Memory) : (s.setBuf b m).ckOff = s.ckOff := by cases b <;> rfl
@[simp] theorem State.setBuf_ckLen (s : State) (b : Buf) (m : Memory) : (s.setBuf b m).ckLen = s.ckLen := by cases b <;> rfl
@[simp] theorem State.setBuf_csum (s : State) (b : Buf) (m : Memory) : (s.setBuf b m).csum = s.csum := by cases b <;> rfl
@[simp] theorem State.setBuf_type (s : State) (b : Buf) (m : Memory) : (s.setBuf b m).type = s.type := by cases b <;> rfl
@[simp] theorem State.setBuf_code (s : State) (b : Buf) (m : Memory) : (s.setBuf b m).code = s.code := by cases b <;> rfl
@[simp] theorem State.setBuf_checksum (s : State) (b : Buf) (m : Memory) : (s.setBuf b m).checksum = s.checksum := by cases b <;> rfl
@[simp] theorem State.setBuf_ident (s : State) (b : Buf) (m : Memory) : (s.setBuf b m).ident = s.ident := by cases b <;> rfl
@[simp] theorem State.setBuf_seq (s : State) (b : Buf) (m : Memory) : (s.setBuf b m).seq = s.seq := by cases b <;> rfl
@[simp] theorem State.setBuf_ttl (s : State) (b : Buf) (m : Memory) : (s.setBuf b m).ttl = s.ttl := by cases b <;> rfl
@[simp] theorem State.setBuf_src (s : State) (b : Buf) (m : Memory) : (s.setBuf b m).src = s.src := by cases b <;> rfl
@[simp] theorem State.setBuf_dst (s : State) (b : Buf) (m : Memory) : (s.setBuf b m).dst = s.dst := by cases b <;> rfl
@[simp] theorem State.setBuf_resets (s : State) (b : Buf) (m : Memory) : (s.setBuf b m).resets = s.resets := by cases b <;> rfl
@[simp] theorem State.setBuf_pending (s : State) (b : Buf) (m : Memory) : (s.setBuf b m).pending = s.pending := by cases b <;> rfl
@[simp] theorem State.setBuf_reply (s : State) (b : Buf) (m : Memory) : (s.setBuf b m).reply = s.reply := by cases b <;> rfl

@[simp] theorem State.buf_frame (s : State) : s.buf .frame = s.frame := rfl
@[simp] theorem State.buf_payload (s : State) : s.buf .payload = s.payload := rfl
@[simp] theorem State.setBuf_frame_frame (s : State) (m : Memory) : (s.setBuf .frame m).frame = m := rfl
@[simp] theorem State.setBuf_frame_payload (s : State) (m : Memory) : (s.setBuf .frame m).payload = s.payload := rfl
@[simp] theorem State.setBuf_payload_frame (s : State) (m : Memory) : (s.setBuf .payload m).frame = s.frame := rfl
@[simp] theorem State.setBuf_payload_payload (s : State) (m : Memory) : (s.setBuf .payload m).payload = m := rfl

/-! ### `State.storeByte` -/

@[simp] theorem State.storeByte_status (s : State) (b : Buf) (i : Nat) (v : Byte) : (s.storeByte b i v).status = s.status := by cases b <;> rfl
@[simp] theorem State.storeByte_flen (s : State) (b : Buf) (i : Nat) (v : Byte) : (s.storeByte b i v).flen = s.flen := by cases b <;> rfl
@[simp] theorem State.storeByte_plen (s : State) (b : Buf) (i : Nat) (v : Byte) : (s.storeByte b i v).plen = s.plen := by cases b <;> rfl
@[simp] theorem State.storeByte_ckOff (s : State) (b : Buf) (i : Nat) (v : Byte) : (s.storeByte b i v).ckOff = s.ckOff := by cases b <;> rfl
@[simp] theorem State.storeByte_ckLen (s : State) (b : Buf) (i : Nat) (v : Byte) : (s.storeByte b i v).ckLen = s.ckLen := by cases b <;> rfl
@[simp] theorem State.storeByte_csum (s : State) (b : Buf) (i : Nat) (v : Byte) : (s.storeByte b i v).csum = s.csum := by cases b <;> rfl
@[simp] theorem State.storeByte_type (s : State) (b : Buf) (i : Nat) (v : Byte) : (s.storeByte b i v).type = s.type := by cases b <;> rfl
@[simp] theorem State.storeByte_code (s : State) (b : Buf) (i : Nat) (v : Byte) : (s.storeByte b i v).code = s.code := by cases b <;> rfl
@[simp] theorem State.storeByte_checksum (s : State) (b : Buf) (i : Nat) (v : Byte) : (s.storeByte b i v).checksum = s.checksum := by cases b <;> rfl
@[simp] theorem State.storeByte_ident (s : State) (b : Buf) (i : Nat) (v : Byte) : (s.storeByte b i v).ident = s.ident := by cases b <;> rfl
@[simp] theorem State.storeByte_seq (s : State) (b : Buf) (i : Nat) (v : Byte) : (s.storeByte b i v).seq = s.seq := by cases b <;> rfl
@[simp] theorem State.storeByte_ttl (s : State) (b : Buf) (i : Nat) (v : Byte) : (s.storeByte b i v).ttl = s.ttl := by cases b <;> rfl
@[simp] theorem State.storeByte_src (s : State) (b : Buf) (i : Nat) (v : Byte) : (s.storeByte b i v).src = s.src := by cases b <;> rfl
@[simp] theorem State.storeByte_dst (s : State) (b : Buf) (i : Nat) (v : Byte) : (s.storeByte b i v).dst = s.dst := by cases b <;> rfl
@[simp] theorem State.storeByte_resets (s : State) (b : Buf) (i : Nat) (v : Byte) : (s.storeByte b i v).resets = s.resets := by cases b <;> rfl
@[simp] theorem State.storeByte_pending (s : State) (b : Buf) (i : Nat) (v : Byte) : (s.storeByte b i v).pending = s.pending := by cases b <;> rfl
@[simp] theorem State.storeByte_reply (s : State) (b : Buf) (i : Nat) (v : Byte) : (s.storeByte b i v).reply = s.reply := by cases b <;> rfl
@[simp] theorem State.storeByte_frame_frame (s : State) (i : Nat) (v : Byte) : (s.storeByte .frame i v).frame = Memory.store s.frame i v := rfl
@[simp] theorem State.storeByte_frame_payload (s : State) (i : Nat) (v : Byte) : (s.storeByte .frame i v).payload = s.payload := rfl
@[simp] theorem State.storeByte_payload_frame (s : State) (i : Nat) (v : Byte) : (s.storeByte .payload i v).frame = s.frame := rfl
@[simp] theorem State.storeByte_payload_payload (s : State) (i : Nat) (v : Byte) : (s.storeByte .payload i v).payload = Memory.store s.payload i v := rfl

/-! ### `State.storeBytes` -/

@[simp] theorem State.storeBytes_status (s : State) (b : Buf) (i : Nat) (bs : List Byte) : (s.storeBytes b i bs).status = s.status := by cases b <;> rfl
@[simp] theorem State.storeBytes_flen (s : State) (b : Buf) (i : Nat) (bs : List Byte) : (s.storeBytes b i bs).flen = s.flen := by cases b <;> rfl
@[simp] theorem State.storeBytes_plen (s : State) (b : Buf) (i : Nat) (bs : List Byte) : (s.storeBytes b i bs).plen = s.plen := by cases b <;> rfl
@[simp] theorem State.storeBytes_ckOff (s : State) (b : Buf) (i : Nat) (bs : List Byte) : (s.storeBytes b i bs).ckOff = s.ckOff := by cases b <;> rfl
@[simp] theorem State.storeBytes_ckLen (s : State) (b : Buf) (i : Nat) (bs : List Byte) : (s.storeBytes b i bs).ckLen = s.ckLen := by cases b <;> rfl
@[simp] theorem State.storeBytes_csum (s : State) (b : Buf) (i : Nat) (bs : List Byte) : (s.storeBytes b i bs).csum = s.csum := by cases b <;> rfl
@[simp] theorem State.storeBytes_type (s : State) (b : Buf) (i : Nat) (bs : List Byte) : (s.storeBytes b i bs).type = s.type := by cases b <;> rfl
@[simp] theorem State.storeBytes_code (s : State) (b : Buf) (i : Nat) (bs : List Byte) : (s.storeBytes b i bs).code = s.code := by cases b <;> rfl
@[simp] theorem State.storeBytes_checksum (s : State) (b : Buf) (i : Nat) (bs : List Byte) : (s.storeBytes b i bs).checksum = s.checksum := by cases b <;> rfl
@[simp] theorem State.storeBytes_ident (s : State) (b : Buf) (i : Nat) (bs : List Byte) : (s.storeBytes b i bs).ident = s.ident := by cases b <;> rfl
@[simp] theorem State.storeBytes_seq (s : State) (b : Buf) (i : Nat) (bs : List Byte) : (s.storeBytes b i bs).seq = s.seq := by cases b <;> rfl
@[simp] theorem State.storeBytes_ttl (s : State) (b : Buf) (i : Nat) (bs : List Byte) : (s.storeBytes b i bs).ttl = s.ttl := by cases b <;> rfl
@[simp] theorem State.storeBytes_src (s : State) (b : Buf) (i : Nat) (bs : List Byte) : (s.storeBytes b i bs).src = s.src := by cases b <;> rfl
@[simp] theorem State.storeBytes_dst (s : State) (b : Buf) (i : Nat) (bs : List Byte) : (s.storeBytes b i bs).dst = s.dst := by cases b <;> rfl
@[simp] theorem State.storeBytes_resets (s : State) (b : Buf) (i : Nat) (bs : List Byte) : (s.storeBytes b i bs).resets = s.resets := by cases b <;> rfl
@[simp] theorem State.storeBytes_pending (s : State) (b : Buf) (i : Nat) (bs : List Byte) : (s.storeBytes b i bs).pending = s.pending := by cases b <;> rfl
@[simp] theorem State.storeBytes_reply (s : State) (b : Buf) (i : Nat) (bs : List Byte) : (s.storeBytes b i bs).reply = s.reply := by cases b <;> rfl
@[simp] theorem State.storeBytes_frame_frame (s : State) (i : Nat) (bs : List Byte) : (s.storeBytes .frame i bs).frame = Memory.storeRange s.frame i bs := rfl
@[simp] theorem State.storeBytes_frame_payload (s : State) (i : Nat) (bs : List Byte) : (s.storeBytes .frame i bs).payload = s.payload := rfl
@[simp] theorem State.storeBytes_payload_frame (s : State) (i : Nat) (bs : List Byte) : (s.storeBytes .payload i bs).frame = s.frame := rfl
@[simp] theorem State.storeBytes_payload_payload (s : State) (i : Nat) (bs : List Byte) : (s.storeBytes .payload i bs).payload = Memory.storeRange s.payload i bs := rfl

end Sys2Proof.Machine
end

