-- ==== Sys2Proof/Laws/Memory.lean ====
section
/-! SUPPORT. The laws of the buffers: a read after a write, writes elsewhere, the canonical form, and equal
contents being equal data. -/

namespace Sys2Proof.Machine

/-! ### One byte -/

@[simp] theorem Memory.lookup_nil (i : Nat) : Memory.lookup [] i = none := rfl

/-- A read after one write, at every index. No canonical form is needed. -/
theorem Memory.lookup_store (m : Memory) (i j : Nat) (b : Byte) :
    Memory.lookup (Memory.store m i b) j = if i = j then some b else Memory.lookup m j := by
  induction m with
  | nil => simp [Memory.store, Memory.lookup]
  | cons c m ih =>
    obtain ⟨k, v⟩ := c
    simp only [Memory.store]
    by_cases hlt : i < k
    · simp [hlt, Memory.lookup]
    · by_cases he : i = k
      · subst he
        by_cases hj : i = j <;> simp [Memory.lookup, hj]
      · simp only [hlt, he, if_false, Memory.lookup, ih]
        by_cases hk : k = j
        · have : i ≠ j := by omega
          simp [hk, this]
        · simp [hk]

theorem Memory.lookup_store_self (m : Memory) (i : Nat) (b : Byte) :
    Memory.lookup (Memory.store m i b) i = some b := by simp [Memory.lookup_store]

theorem Memory.lookup_store_ne (m : Memory) {i j : Nat} (b : Byte) (h : i ≠ j) :
    Memory.lookup (Memory.store m i b) j = Memory.lookup m j := by simp [Memory.lookup_store, h]

/-! ### A range -/

/-- A read after a range of writes, at every index. -/
theorem Memory.lookup_storeRange (m : Memory) (i j : Nat) (bs : List Byte) :
    Memory.lookup (Memory.storeRange m i bs) j
      = if i ≤ j ∧ j < i + bs.length then bs[j - i]? else Memory.lookup m j := by
  induction bs generalizing m i with
  | nil =>
    simp [Memory.storeRange]
  | cons b bs ih =>
    simp only [Memory.storeRange, ih, List.length_cons, Memory.lookup_store]
    by_cases h1 : i = j
    · subst h1
      simp
    · by_cases h2 : i + 1 ≤ j ∧ j < i + 1 + bs.length
      · have h3 : i ≤ j ∧ j < i + (bs.length + 1) := by omega
        have h4 : j - i = (j - (i + 1)) + 1 := by omega
        simp [h2, h3, h4]
      · have h3 : ¬ (i ≤ j ∧ j < i + (bs.length + 1)) := by omega
        rw [if_neg h2, if_neg h3, if_neg h1]

/-! ### The canonical form -/

theorem Memory.wfFrom_mono {cap lo lo' : Nat} {m : Memory} (h : Memory.wfFrom cap lo m = true) (hl : lo' ≤ lo) :
    Memory.wfFrom cap lo' m = true := by
  cases m with
  | nil => rfl
  | cons c m =>
    obtain ⟨k, v⟩ := c
    simp only [Memory.wfFrom, Bool.and_eq_true, decide_eq_true_eq] at h ⊢
    exact ⟨⟨by omega, h.1.2⟩, h.2⟩

theorem Memory.wfFrom_store {cap lo i : Nat} {m : Memory} (b : Byte) (h : Memory.wfFrom cap lo m = true)
    (hlo : lo ≤ i) (hi : i < cap) : Memory.wfFrom cap lo (Memory.store m i b) = true := by
  induction m generalizing lo with
  | nil => simp [Memory.store, Memory.wfFrom, hlo, hi]
  | cons c m ih =>
    obtain ⟨k, v⟩ := c
    simp only [Memory.wfFrom, Bool.and_eq_true, decide_eq_true_eq] at h
    simp only [Memory.store]
    by_cases h1 : i < k
    · simp [h1, Memory.wfFrom, hlo, hi, h.1.2, h.2]
    · by_cases h2 : i = k
      · subst h2
        simp [Memory.wfFrom, hlo, hi, h.2]
      · simp only [h1, h2, if_false, Memory.wfFrom, Bool.and_eq_true, decide_eq_true_eq]
        exact ⟨h.1, ih h.2 (by omega)⟩

/-- A write below the capacity keeps the canonical form. -/
theorem Memory.wf_store {cap i : Nat} {m : Memory} (b : Byte) (h : Memory.wf cap m = true) (hi : i < cap) :
    Memory.wf cap (Memory.store m i b) = true := Memory.wfFrom_store b h (Nat.zero_le i) hi

/-- A range of writes below the capacity keeps the canonical form. -/
theorem Memory.wf_storeRange {cap i : Nat} {m : Memory} {bs : List Byte} (h : Memory.wf cap m = true)
    (hi : i + bs.length ≤ cap) : Memory.wf cap (Memory.storeRange m i bs) = true := by
  induction bs generalizing m i with
  | nil => exact h
  | cons b bs ih =>
    simp only [List.length_cons] at hi
    exact ih (Memory.wf_store b h (by omega)) (by omega)

theorem Memory.lookup_lt {cap lo : Nat} {m : Memory} (h : Memory.wfFrom cap lo m = true) {i : Nat} (hi : i < lo) :
    Memory.lookup m i = none := by
  induction m generalizing lo with
  | nil => rfl
  | cons c m ih =>
    obtain ⟨k, v⟩ := c
    simp only [Memory.wfFrom, Bool.and_eq_true, decide_eq_true_eq] at h
    have hk : k ≠ i := by omega
    simp only [Memory.lookup, hk, if_false]
    exact ih h.2 (by omega)

theorem Memory.ext_from {cap lo : Nat} {m n : Memory} (hm : Memory.wfFrom cap lo m = true)
    (hn : Memory.wfFrom cap lo n = true) (h : ∀ i, Memory.lookup m i = Memory.lookup n i) : m = n := by
  induction m generalizing n lo with
  | nil =>
    cases n with
    | nil => rfl
    | cons c n =>
      have := h c.1
      simp [Memory.lookup] at this
  | cons c m ih =>
    obtain ⟨k, v⟩ := c
    cases n with
    | nil =>
      have := h k
      simp [Memory.lookup] at this
    | cons d n =>
      obtain ⟨l, w⟩ := d
      simp only [Memory.wfFrom, Bool.and_eq_true, decide_eq_true_eq] at hm hn
      have hk := h k
      have hl := h l
      have hkl : k = l := by
        by_contra hne
        rcases Nat.lt_or_gt_of_ne hne with hlt | hgt
        · have : Memory.lookup n k = none := Memory.lookup_lt hn.2 (by omega)
          simp [Memory.lookup, this, Ne.symm hne] at hk
        · have : Memory.lookup m l = none := Memory.lookup_lt hm.2 (by omega)
          simp [Memory.lookup, this, hne] at hl
      subst hkl
      have hv : v = w := by simpa [Memory.lookup] using hk
      subst hv
      have hrest : m = n := by
        refine ih hm.2 hn.2 fun i => ?_
        by_cases hi : k = i
        · subst hi
          rw [Memory.lookup_lt hm.2 (Nat.lt_succ_self k), Memory.lookup_lt hn.2 (Nat.lt_succ_self k)]
        · have := h i
          simpa [Memory.lookup, hi] using this
      rw [hrest]

/-- Two canonical buffers with the same content are the same data. -/
theorem Memory.ext {cap : Nat} {m n : Memory} (hm : Memory.wf cap m = true) (hn : Memory.wf cap n = true)
    (h : ∀ i, Memory.lookup m i = Memory.lookup n i) : m = n := Memory.ext_from hm hn h

/-- Writing the same range twice leaves the data of writing it once. -/
theorem Memory.storeRange_twice {cap i : Nat} {m : Memory} {bs : List Byte} (h : Memory.wf cap m = true)
    (hi : i + bs.length ≤ cap) :
    Memory.storeRange (Memory.storeRange m i bs) i bs = Memory.storeRange m i bs := by
  have h1 := Memory.wf_storeRange h hi
  refine Memory.ext (Memory.wf_storeRange h1 hi) h1 fun j => ?_
  rw [Memory.lookup_storeRange, Memory.lookup_storeRange]
  split <;> rfl

/-! ### The bytes of a state -/

theorem State.byte_eq_of_lookup {s : State} {b : Buf} {i : Nat} {v : Byte}
    (h : Memory.lookup (s.buf b) i = some v) : s.byte b i = v := by simp [State.byte, h]

/-- The byte at an index depends only on the buffer's content and on the count of resets. -/
theorem State.byte_congr {s t : State} {b : Buf} (hb : t.buf b = s.buf b) (hr : t.resets = s.resets) (i : Nat) :
    t.byte b i = s.byte b i := by simp [State.byte, hb, hr]

theorem State.buf_setBuf (s : State) (b b' : Buf) (m : Memory) :
    (s.setBuf b m).buf b' = if b = b' then m else s.buf b' := by cases b <;> cases b' <;> rfl

/-- A read after the write of one byte. -/
theorem State.byte_storeByte (s : State) (b b' : Buf) (i j : Nat) (v : Byte) :
    (s.storeByte b i v).byte b' j = if b = b' ∧ i = j then v else s.byte b' j := by
  by_cases hb : b = b'
  · subst hb
    by_cases hi : i = j <;> simp [State.byte, State.storeByte, State.buf_setBuf, Memory.lookup_store, hi]
  · simp [State.byte, State.storeByte, State.buf_setBuf, hb]

/-- A read after the write of a byte sequence: inside the range the byte written, outside it and in the other
buffer the byte that was there. -/
theorem State.byte_storeBytes (s : State) (b b' : Buf) (i j : Nat) (bs : List Byte) :
    (s.storeBytes b i bs).byte b' j
      = if b = b' ∧ i ≤ j ∧ j < i + bs.length then bs.getD (j - i) 0 else s.byte b' j := by
  by_cases hb : b = b'
  · subst hb
    by_cases hr : i ≤ j ∧ j < i + bs.length
    · have hj : j - i < bs.length := by omega
      simp [State.byte, State.storeBytes, State.buf_setBuf, Memory.lookup_storeRange, hr, hj]
    · simp [State.byte, State.storeBytes, State.buf_setBuf, Memory.lookup_storeRange, hr]
  · simp [State.byte, State.storeBytes, State.buf_setBuf, hb]

@[simp] theorem State.length_bytes (s : State) (b : Buf) (i n : Nat) : (s.bytes b i n).length = n := by
  simp [State.bytes]

@[simp] theorem State.getElem_bytes (s : State) (b : Buf) (i n k : Nat) (h : k < (s.bytes b i n).length) :
    (s.bytes b i n)[k] = s.byte b (i + k) := by simp [State.bytes]

theorem State.getD_bytes (s : State) (b : Buf) (i n k : Nat) (hk : k < n) :
    (s.bytes b i n).getD k 0 = s.byte b (i + k) := by simp [List.getD, hk]

/-- Reading back a byte sequence just written. -/
theorem State.bytes_storeBytes (s : State) (b : Buf) (i : Nat) (bs : List Byte) :
    (s.storeBytes b i bs).bytes b i bs.length = bs := by
  refine List.ext_getElem (by simp) fun k h _ => ?_
  rw [State.length_bytes] at h
  rw [State.getElem_bytes, State.byte_storeBytes, if_pos ⟨rfl, by omega, by omega⟩]
  simp [List.getD, h]

/-- Byte sequences agree where the bytes agree. -/
theorem State.bytes_congr {s t : State} {b : Buf} {i n : Nat}
    (h : ∀ k, k < n → t.byte b (i + k) = s.byte b (i + k)) : t.bytes b i n = s.bytes b i n :=
  List.ext_getElem (by simp) fun k h1 _ => by simpa using h k (by simpa using h1)

theorem State.drop_bytes (s : State) (b : Buf) (i n k : Nat) :
    (s.bytes b i n).drop k = s.bytes b (i + k) (n - k) :=
  List.ext_getElem (by simp) fun j _ _ => by simp [Nat.add_assoc]

/-- The state's canonical form, unfolded once. -/
theorem State.wf_iff (P : Params) (s : State) :
    s.wf P = true ↔ Memory.wf P.frameCap s.frame = true ∧ Memory.wf P.payCap s.payload = true := by
  simp [State.wf]

end Sys2Proof.Machine
end

