-- ==== Sys2Proof/Laws/Checksum.lean ====
section
/-! SUPPORT. The arithmetic of the checksum engine: byte order on natural numbers, the accumulator as a sum of
words, one fold step, and sums under concatenation and replacement. -/

namespace Sys2Proof.Machine

/-! ### Byte order -/

theorem be16_toNat (hi lo : Byte) : (be16 hi lo).toNat = hi.toNat * 256 + lo.toNat := by
  have h := lo.isLt
  simp only [be16, BitVec.toNat_append]
  rw [← Nat.shiftLeft_add_eq_or_of_lt h, Nat.shiftLeft_eq]

theorem hi8_toNat (v : Half) : (hi8 v).toNat = v.toNat / 256 := by
  have := v.isLt
  simp only [hi8, BitVec.extractLsb'_toNat, Nat.shiftRight_eq_div_pow]
  omega

theorem lo8_toNat (v : Half) : (lo8 v).toNat = v.toNat % 256 := by simp [lo8]

@[simp] theorem be16_hi8_lo8 (v : Half) : be16 (hi8 v) (lo8 v) = v := by
  apply BitVec.eq_of_toNat_eq
  rw [be16_toNat, hi8_toNat, lo8_toNat]
  omega

@[simp] theorem hi8_be16 (hi lo : Byte) : hi8 (be16 hi lo) = hi := by
  have := lo.isLt
  apply BitVec.eq_of_toNat_eq
  rw [hi8_toNat, be16_toNat]
  omega

@[simp] theorem lo8_be16 (hi lo : Byte) : lo8 (be16 hi lo) = lo := by
  have := lo.isLt
  apply BitVec.eq_of_toNat_eq
  rw [lo8_toNat, be16_toNat]
  omega

/-! ### The sum of the words -/

@[simp] theorem wordSum_nil : wordSum [] = 0 := rfl

theorem wordSum_single (b : Byte) : wordSum [b] = b.toNat * 256 := by
  simp [wordSum, wordsOf, be16_toNat]

theorem wordSum_cons_cons (hi lo : Byte) (rest : List Byte) :
    wordSum (hi :: lo :: rest) = (hi.toNat * 256 + lo.toNat) + wordSum rest := by
  simp [wordSum, wordsOf, be16_toNat]

/-- The summing loop, as an equation of 32-bit values. -/
theorem sumWords_eq (bs : List Byte) (acc : Word) : sumWords bs acc = acc + BitVec.ofNat 32 (wordSum bs) := by
  induction bs using wordsOf.induct generalizing acc with
  | case1 => simp [sumWords]
  | case2 hi =>
    have : (be16 hi 0).setWidth 32 = BitVec.ofNat 32 (wordSum [hi]) := by
      apply BitVec.eq_of_toNat_eq
      simp [wordSum_single, be16_toNat]
    rw [sumWords, this]
  | case3 hi lo rest ih =>
    have : (be16 hi lo).setWidth 32 = BitVec.ofNat 32 (hi.toNat * 256 + lo.toNat) := by
      apply BitVec.eq_of_toNat_eq
      simp [be16_toNat]
    rw [sumWords, ih, wordSum_cons_cons, this, BitVec.ofNat_add (_ + _) (wordSum rest), BitVec.add_assoc]

/-- Each word is at most `0xFFFF`. -/
theorem wordSum_le (bs : List Byte) : wordSum bs ≤ (bs.length + 1) / 2 * 0xFFFF := by
  induction bs using wordsOf.induct with
  | case1 => simp
  | case2 hi =>
    have := hi.isLt
    rw [wordSum_single]
    simp only [List.length_singleton]
    omega
  | case3 hi lo rest ih =>
    have := hi.isLt
    have := lo.isLt
    rw [wordSum_cons_cons]
    simp only [List.length_cons]
    have : (rest.length + 1 + 1 + 1) / 2 = (rest.length + 1) / 2 + 1 := by omega
    rw [this]
    omega

/-- The sum over a concatenation that starts with an even number of bytes. -/
theorem wordSum_append (as bs : List Byte) (h : as.length % 2 = 0) :
    wordSum (as ++ bs) = wordSum as + wordSum bs := by
  induction as using wordsOf.induct with
  | case1 => simp
  | case2 hi => simp at h
  | case3 hi lo rest ih =>
    simp only [List.length_cons] at h
    simp only [List.cons_append, wordSum_cons_cons, ih (by omega)]
    omega

/-- Replacing the word at an even position: the sum exchanges the old word for the new one. -/
theorem wordSum_putHalf (bs : List Byte) (k : Nat) (v : Half) (hk : k % 2 = 0) (hl : k + 1 < bs.length) :
    wordSum (putHalf bs k v) + (getHalf bs k).toNat = wordSum bs + v.toNat := by
  induction bs using wordsOf.induct generalizing k with
  | case1 => simp at hl
  | case2 hi => simp at hl
  | case3 hi lo rest ih =>
    rcases Nat.lt_or_ge k 2 with h | h
    · have : k = 0 := by omega
      subst this
      have := v.isLt
      simp only [putHalf, getHalf, List.set_cons_zero, List.set_cons_succ, wordSum_cons_cons, hi8_toNat, lo8_toNat,
        be16_toNat, List.getD_cons_zero, List.getD_cons_succ]
      omega
    · obtain ⟨j, rfl⟩ : ∃ j, k = j + 2 := ⟨k - 2, by omega⟩
      simp only [List.length_cons] at hl
      have := ih j (by omega) (by omega)
      simp only [putHalf, getHalf, List.set_cons_succ, List.getD_cons_succ, wordSum_cons_cons] at this ⊢
      omega

@[simp] theorem length_putHalf (bs : List Byte) (k : Nat) (v : Half) : (putHalf bs k v).length = bs.length := by
  simp [putHalf]

theorem getHalf_putHalf (bs : List Byte) (k : Nat) (v : Half) (h : k + 1 < bs.length) :
    getHalf (putHalf bs k v) k = v := by
  have h1 : k < bs.length := by omega
  simp [getHalf, putHalf, List.getD, h, h1]

theorem putHalf_putHalf (bs : List Byte) (k : Nat) (v w : Half) :
    putHalf (putHalf bs k v) k w = putHalf bs k w := by
  unfold putHalf
  rw [← List.set_comm (hi8 w) _ (by omega : k ≠ k + 1)]
  simp [List.set_set]

theorem putHalf_getHalf (bs : List Byte) (k : Nat) (h : k + 1 < bs.length) :
    putHalf bs k (getHalf bs k) = bs := by
  have h1 : k < bs.length := by omega
  simp [getHalf, putHalf, List.getD, h, h1]

/-! ### The fold -/

theorem foldStep_toNat (acc : Word) : (foldStep acc).toNat = acc.toNat / 0x10000 + acc.toNat % 0x10000 := by
  have hlt := acc.isLt
  have hhi : acc.toNat / 65536 < 65536 := by omega
  have hlo : acc.toNat % 65536 < 65536 := by omega
  simp only [foldStep, BitVec.toNat_add, BitVec.toNat_setWidth, BitVec.extractLsb'_toNat,
    Nat.shiftRight_eq_div_pow, Nat.reducePow, Nat.div_one, Nat.mod_eq_of_lt hhi]
  rw [Nat.mod_eq_of_lt (by omega : acc.toNat / 65536 < 4294967296),
    Nat.mod_eq_of_lt (by omega : acc.toNat % 65536 < 4294967296), Nat.mod_eq_of_lt (by omega)]

theorem foldLoop_succ (n : Nat) (acc : Word) :
    foldLoop (n + 1) acc = if acc.toNat < 0x10000 then acc else foldLoop n (foldStep acc) := by
  have h : acc.extractLsb' 16 16 = 0 ↔ acc.toNat < 0x10000 := by
    have := acc.isLt
    have hz : BitVec.toNat (0 : BitVec 16) = 0 := rfl
    rw [← BitVec.toNat_inj, hz]
    simp only [BitVec.extractLsb'_toNat, Nat.shiftRight_eq_div_pow, Nat.reducePow]
    omega
  simp only [foldLoop, h]

@[simp] theorem foldLoop_zero (acc : Word) : foldLoop 0 acc = acc := rfl

/-- A value below `0x10000` is folded already. -/
theorem foldLoop_of_lt (n : Nat) {acc : Word} (h : acc.toNat < 0x10000) : foldLoop n acc = acc := by
  cases n with
  | zero => rfl
  | succ n => rw [foldLoop_succ, if_pos h]

/-- The result of the function on numbers: the complement of the folded sum. -/
theorem cksum16_toNat (bs : List Byte) :
    (cksum16 bs).toNat = 0xFFFF - (fold (sumWords bs 0)).toNat % 0x10000 := by
  simp only [cksum16, BitVec.toNat_not, BitVec.extractLsb'_toNat, Nat.shiftRight_eq_div_pow, Nat.reducePow,
    Nat.div_one]

/-- Equal sums give equal checksums. -/
theorem cksum16_congr {as bs : List Byte} (h : wordSum as = wordSum bs) : cksum16 as = cksum16 bs := by
  simp [cksum16, sumWords_eq, h]

end Sys2Proof.Machine
end

