-- ==== Sys2Proof/Laws/Commands.lean ====
section
/-! SUPPORT. Once for each command and each pure function: everything it can do, under the conditions of
its rule. -/

namespace Sys2Proof.Machine

/-! ### The commands as functions of the state -/

@[simp] theorem exec_nop (s : State) : exec .nop s = .next s.succeed := rfl
@[simp] theorem exec_cksum (s : State) : exec .cksum s = .next (cksumCommand Config.params s) := rfl
@[simp] theorem exec_parse (s : State) : exec .parse s = .next (parseCommand Config.params s) := rfl
@[simp] theorem exec_serialize (s : State) : exec .serialize s = .next (serializeCommand Config.params s) := rfl
@[simp] theorem exec_srst (s : State) : exec .srst s = .next s.clearRegs := rfl

/-! ### `CKSUM` -/

/-- `CKSUM` either raises `LengthRange`, in exactly the cases of R108, or sums the window. -/
theorem cksumCommand_cases (P : Params) (s : State) :
    ((P.frameCap < s.flen.toNat ∨ s.flen.toNat < s.ckOff.toNat + s.ckLen.toNat)
      ∧ cksumCommand P s = s.raise .lengthRange)
    ∨ (s.flen.toNat ≤ P.frameCap ∧ s.ckOff.toNat + s.ckLen.toNat ≤ s.flen.toNat
      ∧ cksumCommand P s = (s.setCsum (cksum16 s.window)).succeed) := by
  unfold cksumCommand
  split
  · exact .inl ⟨.inl ‹_›, rfl⟩
  · split
    · exact .inl ⟨.inr ‹_›, rfl⟩
    · exact .inr ⟨by omega, by omega, rfl⟩

/-! ### `parse_dgram` and `PARSE` -/

theorem parseDgram_short {d : List Byte} (h : d.length < 20) : parseDgram d = .error .truncatedIpHeader := by
  simp [parseDgram, h]

theorem parseDgram_middle {d : List Byte} (h : 20 ≤ d.length) (h' : d.length < 28) :
    parseDgram d = .error .truncatedIcmpHeader := by
  have : ¬ d.length < 20 := by omega
  have : d.length - 20 < 8 := by omega
  simp [parseDgram, *]

theorem parseDgram_long {d : List Byte} (h : 28 ≤ d.length) : parseDgram d = .message (messageOf d) := by
  have : ¬ d.length < 20 := by omega
  have : ¬ d.length - 20 < 8 := by omega
  simp [parseDgram, *]

/-- The state a successful `PARSE` leaves. -/
def parsedState (s : State) : State :=
  (((s.setMessage (messageOf (s.bytes .frame 0 s.flen.toNat))).setPlen
    (BitVec.ofNat 16 (s.flen.toNat - 28))).storeBytes .payload 0 (s.bytes .frame 28 (s.flen.toNat - 28))).succeed

/-- `PARSE` raises one of three errors, by the length alone, or parses the frame. -/
theorem parseCommand_cases (P : Params) (s : State) :
    (P.frameCap < s.flen.toNat ∧ parseCommand P s = s.raise .lengthRange)
    ∨ (s.flen.toNat ≤ P.frameCap ∧ s.flen.toNat < 20 ∧ parseCommand P s = s.raise .truncatedIpHeader)
    ∨ (s.flen.toNat ≤ P.frameCap ∧ 20 ≤ s.flen.toNat ∧ s.flen.toNat < 28
      ∧ parseCommand P s = s.raise .truncatedIcmpHeader)
    ∨ (s.flen.toNat ≤ P.frameCap ∧ 28 ≤ s.flen.toNat ∧ parseCommand P s = parsedState s) := by
  unfold parseCommand
  split
  · exact .inl ⟨‹_›, rfl⟩
  · rename_i hcap
    right
    rcases Nat.lt_or_ge s.flen.toNat 20 with h | h
    · left
      rw [parseDgram_short (by simpa using h)]
      exact ⟨by omega, h, rfl⟩
    · rcases Nat.lt_or_ge s.flen.toNat 28 with h' | h'
      · right; left
        rw [parseDgram_middle (by simpa using h) (by simpa using h')]
        exact ⟨by omega, h, h', rfl⟩
      · right; right
        rw [parseDgram_long (by simpa using h')]
        refine ⟨by omega, h', ?_⟩
        have hp : (messageOf (s.bytes .frame 0 s.flen.toNat)).payload = s.bytes .frame 28 (s.flen.toNat - 28) := by
          simp only [messageOf, State.drop_bytes]
          congr 1
        simp only [parsedState, hp]

/-! ### `serialize_msg` and `SERIALIZE` -/

/-- The serialized bytes, written out. -/
theorem serializeMsg_eq (m : IcmpMessage) :
    serializeMsg m = m.type :: m.code :: hi8 (cksum16 (zeroedSegment m)) :: lo8 (cksum16 (zeroedSegment m))
      :: hi8 m.identifier :: lo8 m.identifier :: hi8 m.sequenceNumber :: lo8 m.sequenceNumber :: m.payload := rfl

@[simp] theorem length_zeroedSegment (m : IcmpMessage) : (zeroedSegment m).length = m.payload.length + 8 := rfl

@[simp] theorem length_serializeMsg (m : IcmpMessage) : (serializeMsg m).length = m.payload.length + 8 := rfl

/-- Zeroing the checksum field of the serialized bytes gives the zeroed segment. -/
theorem putHalf_serializeMsg (m : IcmpMessage) : putHalf (serializeMsg m) 2 0 = zeroedSegment m := rfl

/-- The serialized bytes are the zeroed segment with its checksum put in. -/
theorem serializeMsg_eq_putHalf (m : IcmpMessage) :
    serializeMsg m = putHalf (zeroedSegment m) 2 (cksum16 (zeroedSegment m)) := rfl

@[simp] theorem State.length_message_payload (s : State) : s.message.payload.length = s.plen.toNat := by
  simp [State.message]

/-- The state a successful `SERIALIZE` leaves. -/
def serializedState (s : State) : State :=
  (((s.storeBytes .frame 0 (serializeMsg s.message)).setFlen (BitVec.ofNat 16 (8 + s.plen.toNat))).setCsum
    (cksum16 (zeroedSegment s.message))).succeed

/-- `SERIALIZE` raises `LengthRange` exactly for a payload that does not fit, or builds the segment. -/
theorem serializeCommand_cases (P : Params) (s : State) :
    (P.payCap < s.plen.toNat ∧ serializeCommand P s = s.raise .lengthRange)
    ∨ (s.plen.toNat ≤ P.payCap ∧ serializeCommand P s = serializedState s) := by
  unfold serializeCommand
  split
  · exact .inl ⟨‹_›, rfl⟩
  · refine .inr ⟨by omega, ?_⟩
    have h : be16 ((serializeMsg s.message).getD 2 0) ((serializeMsg s.message).getD 3 0)
        = cksum16 (zeroedSegment s.message) := by
      simp [serializeMsg_eq]
    simp only [serializedState, h]

/-! ### The canonical form -/

/-- The canonical form looks at the two buffers alone. -/
theorem State.wf_congr {P : Params} {s t : State} (hf : t.frame = s.frame) (hp : t.payload = s.payload) :
    t.wf P = s.wf P := by simp [State.wf, hf, hp]

theorem cksumCommand_wf {P : Params} {s : State} (h : s.wf P = true) : (cksumCommand P s).wf P = true := by
  rcases cksumCommand_cases P s with ⟨_, e⟩ | ⟨_, _, e⟩ <;> rw [e] <;> exact h

theorem parseCommand_wf {P : Params} {s : State} (h : s.wf P = true) : (parseCommand P s).wf P = true := by
  rcases parseCommand_cases P s with ⟨_, e⟩ | ⟨_, _, e⟩ | ⟨_, _, _, e⟩ | ⟨hc, hl, e⟩ <;> rw [e]
  · exact h
  · exact h
  · exact h
  · obtain ⟨hf, hp⟩ := (State.wf_iff P s).1 h
    refine (State.wf_iff P _).2 ⟨hf, ?_⟩
    exact Memory.wf_storeRange hp (by simp [Params.payCap]; omega)

theorem serializeCommand_wf {P : Params} {s : State} (hP : 8 ≤ P.frameCap) (h : s.wf P = true) :
    (serializeCommand P s).wf P = true := by
  rcases serializeCommand_cases P s with ⟨_, e⟩ | ⟨hc, e⟩ <;> rw [e]
  · exact h
  · obtain ⟨hf, hp⟩ := (State.wf_iff P s).1 h
    refine (State.wf_iff P _).2 ⟨?_, hp⟩
    refine Memory.wf_storeRange hf ?_
    simp only [Params.payCap] at hc
    simp
    omega

end Sys2Proof.Machine
end

