-- ==== Sys2Proof/Laws/Bus.lean ====
section
/-! SUPPORT. What the address map designates and what one step does, once for each form of host action. -/

namespace Sys2Proof.Machine

/-! ### The address map of the default instance -/

/-- The address of a register designates that register, in an access of 4 bytes. -/
@[simp] theorem locate_regAddr (r : RegName) :
    locate Config.params (regAddr Config.params r).toNat 4 = some (.reg r) := by cases r <;> decide

@[simp] theorem locate_cmd : locate Config.params (0x00000 : Addr).toNat 4 = some (.reg .CMD) := by decide

/-- Membership in a window, as inequalities. -/
theorem inWindow_iff (base a : Nat) : inWindow base a = true ↔ base ≤ a ∧ a < base + 0x10000 := by
  unfold inWindow windowSize
  rw [Bool.and_eq_true, decide_eq_true_eq, decide_eq_true_eq]

/-- A mapped index of `FRAME`. -/
theorem locate_frame {a i : Nat} (ha : a = 0x10000 + i) (hi : i < 2000) :
    locate Config.params a 1 = some (.byte .frame i) := by
  have hr : ¬ inWindow Config.params.regBase a = true := by
    rw [inWindow_iff, show Config.params.regBase = 0 from rfl]; omega
  have hf : inWindow Config.params.frameBase a = true := by
    rw [inWindow_iff, show Config.params.frameBase = 0x10000 from rfl]; omega
  have hs : a - Config.params.frameBase = i := by rw [show Config.params.frameBase = 0x10000 from rfl]; omega
  have hc : i < Config.params.frameCap := hi
  simp only [locate, hr, hf, hs, hc, and_self, if_true, Bool.false_eq_true, if_false]

/-- A mapped index of `PAYLOAD`. -/
theorem locate_payload {a i : Nat} (ha : a = 0x20000 + i) (hi : i < 1992) :
    locate Config.params a 1 = some (.byte .payload i) := by
  have hr : ¬ inWindow Config.params.regBase a = true := by
    rw [inWindow_iff, show Config.params.regBase = 0 from rfl]; omega
  have hf : ¬ inWindow Config.params.frameBase a = true := by
    rw [inWindow_iff, show Config.params.frameBase = 0x10000 from rfl]; omega
  have hp : inWindow Config.params.payloadBase a = true := by
    rw [inWindow_iff, show Config.params.payloadBase = 0x20000 from rfl]; omega
  have hs : a - Config.params.payloadBase = i := by
    rw [show Config.params.payloadBase = 0x20000 from rfl]; omega
  have hc : i < Config.params.payCap := hi
  simp only [locate, hr, hf, hp, hs, hc, and_self, if_true, Bool.false_eq_true, if_false]

/-- The register at an offset lies at that offset. -/
theorem regOffset_of_regAtOffset {off : Nat} {r : RegName} (h : regAtOffset off = some r) : regOffset r = off := by
  have := List.find?_some h
  simpa using this

/-- Everything the address map can designate. -/
theorem locate_some {a n : Nat} {l : Location} (h : locate Config.params a n = some l) :
    (∃ r, l = .reg r ∧ n = 4 ∧ a = regOffset r)
    ∨ (∃ i, l = .byte .frame i ∧ n = 1 ∧ a = 0x10000 + i ∧ i < 2000)
    ∨ (∃ i, l = .byte .payload i ∧ n = 1 ∧ a = 0x20000 + i ∧ i < 1992) := by
  have eR : Config.params.regBase = 0 := rfl
  have eF : Config.params.frameBase = 0x10000 := rfl
  have eP : Config.params.payloadBase = 0x20000 := rfl
  have eC : Config.params.frameCap = 2000 := rfl
  have eY : Config.params.payCap = 1992 := rfl
  unfold locate at h
  split at h
  · split at h
    · obtain ⟨r, hr, rfl⟩ := Option.map_eq_some_iff.1 h
      have := regOffset_of_regAtOffset hr
      exact .inl ⟨r, rfl, by omega, by omega⟩
    · cases h
  · split at h
    · rename_i hw
      rw [inWindow_iff] at hw
      split at h
      · cases h
        exact .inr (.inl ⟨_, rfl, by omega, by omega, by omega⟩)
      · cases h
    · split at h
      · rename_i hw
        rw [inWindow_iff] at hw
        split at h
        · cases h
          exact .inr (.inr ⟨_, rfl, by omega, by omega, by omega⟩)
        · cases h
      · cases h

/-! ### Commands and writes, on every instance -/

/-- The commands of the machine that runs are those of the default instance. -/
theorem execAt_default (i : Instr) (s : State) : execAt Config.params i s = exec i s := by cases i <;> rfl

/-- Every command word answers a next state: a command's, or the illegal-command error. -/
theorem runCommandAt_cases (P : Params) (w : Word) (s : State) :
    (∃ i, decode w = .command i ∧ runCommand P w s = execAt P i s)
    ∨ (∃ why, decode w = .reserved why) ∧ runCommand P w s = .next (s.raise .illegalCommand) := by
  unfold runCommand
  rcases h : decode w with i | why
  · exact .inl ⟨i, rfl, rfl⟩
  · exact .inr ⟨⟨why, rfl⟩, rfl⟩

/-- The same on the default instance. -/
theorem runCommand_cases (w : Word) (s : State) :
    (∃ i, decode w = .command i ∧ runCommand Config.params w s = exec i s)
    ∨ (∃ why, decode w = .reserved why)
      ∧ runCommand Config.params w s = .next (s.raise .illegalCommand) := by
  simpa only [execAt_default] using runCommandAt_cases Config.params w s

/-- What a host's write does, by what its address designates. -/
theorem hostWrite_reg {P : Params} {a : Addr} {n : Nat} {r : RegName} (v : Word) (s : State)
    (h : locate P a.toNat n = some (.reg r)) (hr : r ≠ .CMD) :
    hostWrite P a n v s = .next (writeReg r v s) := by
  unfold hostWrite
  rw [h]
  cases r <;> first | rfl | exact absurd rfl hr

theorem hostWrite_cmd {P : Params} {a : Addr} {n : Nat} (v : Word) (s : State)
    (h : locate P a.toNat n = some (.reg .CMD)) : hostWrite P a n v s = runCommand P v s := by
  unfold hostWrite
  rw [h]

theorem hostWrite_byte {P : Params} {a : Addr} {n : Nat} {b : Buf} {i : Nat} (v : Word) (s : State)
    (h : locate P a.toNat n = some (.byte b i)) :
    hostWrite P a n v s = .next (s.storeByte b i (v.setWidth 8)) := by
  unfold hostWrite
  rw [h]

theorem hostWrite_none {P : Params} {a : Addr} {n : Nat} (v : Word) (s : State)
    (h : locate P a.toNat n = none) : hostWrite P a n v s = .refused (.busError a n) := by
  unfold hostWrite
  rw [h]

/-! ### One step -/

theorem stepAt_cons (P : Params) {s : State} {act : HostAction} {rest : List HostAction}
    (h : s.pending = act :: rest) : stepAt P s = perform P act (s.begin rest .completed) := by
  simp [stepAt, h]

/-- A step takes the next action of the host, if there is one. -/
theorem stepAt_cases (P : Params) (s : State) :
    (s.pending = [] ∧ stepAt P s = .next s)
    ∨ ∃ act rest, s.pending = act :: rest ∧ stepAt P s = perform P act (s.begin rest .completed) := by
  rcases h : s.pending with _ | ⟨act, rest⟩
  · exact .inl ⟨rfl, by simp [stepAt, h]⟩
  · exact .inr ⟨act, rest, rfl, stepAt_cons P h⟩

theorem step_nil {s : State} (h : s.pending = []) : step s = .next s := by simp [step, stepAt, h]

theorem step_cons {s : State} {act : HostAction} {rest : List HostAction} (h : s.pending = act :: rest) :
    step s = perform Config.params act (s.begin rest .completed) := stepAt_cons Config.params h

theorem step_cases (s : State) :
    (s.pending = [] ∧ step s = .next s)
    ∨ ∃ act rest, s.pending = act :: rest ∧ step s = perform Config.params act (s.begin rest .completed) :=
  stepAt_cases Config.params s

/-- The step of a write to `CMD`. -/
theorem step_command {s : State} {w : Word} {rest : List HostAction}
    (h : s.pending = .write (0x00000 : Addr) 4 w :: rest) :
    step s = runCommand Config.params w (s.begin rest .completed) := by
  rw [step_cons h]
  exact hostWrite_cmd w _ locate_cmd

/-- No command touches the model's own fields. -/
theorem exec_own {i : Instr} {s t : State} (h : exec i s = .next t) :
    t.resets = s.resets ∧ t.pending = s.pending ∧ t.reply = s.reply := by
  cases i <;> simp only [exec_nop, exec_cksum, exec_parse, exec_serialize, exec_srst, Host.Outcome.next.injEq] at h
    <;> subst h
  · simp
  · rcases cksumCommand_cases Config.params s with ⟨_, e⟩ | ⟨_, _, e⟩ <;> simp [e]
  · rcases parseCommand_cases Config.params s with ⟨_, e⟩ | ⟨_, _, e⟩ | ⟨_, _, _, e⟩ | ⟨_, _, e⟩
      <;> simp [e, parsedState]
  · rcases serializeCommand_cases Config.params s with ⟨_, e⟩ | ⟨_, e⟩ <;> simp [e, serializedState]
  · simp

/-- A write to a register touches neither buffer nor the model's own fields. -/
theorem writeReg_buffers (r : RegName) (w : Word) (s : State) :
    (writeReg r w s).frame = s.frame ∧ (writeReg r w s).payload = s.payload
      ∧ (writeReg r w s).resets = s.resets ∧ (writeReg r w s).pending = s.pending
      ∧ (writeReg r w s).reply = s.reply := by cases r <;> exact ⟨rfl, rfl, rfl, rfl, rfl⟩

end Sys2Proof.Machine
end

