-- ==== Sys2Proof/Laws/Instances.lean ====
section
/-! SUPPORT. The address map of every legal instance (spec/00_scope.md R5, spec/20_memory.md R38). -/

namespace Sys2Proof.Machine

/-- The constraints on the parameters, as inequalities. -/
theorem Params.wf_ineqs {P : Params} (h : P.wf = true) :
    (28 ≤ P.frameCap ∧ P.frameCap ≤ 65535) ∧ P.regBase % 4 = 0
      ∧ (P.regBase + 65536 ≤ 262144 ∧ P.frameBase + 65536 ≤ 262144 ∧ P.payloadBase + 65536 ≤ 262144)
      ∧ (P.regBase + 65536 ≤ P.frameBase ∨ P.frameBase + 65536 ≤ P.regBase)
      ∧ (P.regBase + 65536 ≤ P.payloadBase ∨ P.payloadBase + 65536 ≤ P.regBase)
      ∧ (P.frameBase + 65536 ≤ P.payloadBase ∨ P.payloadBase + 65536 ≤ P.frameBase) := by
  simp only [Params.wf, Params.capWf, Params.basesWf, windowsApart, Bool.and_eq_true, Bool.or_eq_true,
    decide_eq_true_eq] at h
  obtain ⟨⟨hc, _⟩, ⟨⟨⟨⟨⟨⟨h0, h1⟩, h2⟩, h3⟩, h4⟩, h5⟩, h6⟩⟩ := h
  exact ⟨hc, h0, ⟨h1, h2, h3⟩, h4, h5, h6⟩

theorem regOffset_lt (r : RegName) : regOffset r < 0x50 ∧ regOffset r % 4 = 0 := by cases r <;> decide

theorem regAtOffset_regOffset (r : RegName) : regAtOffset (regOffset r) = some r := by cases r <;> decide

/-- The address of a register designates that register on every legal instance. -/
theorem locate_regAddr_of_wf {P : Params} (h : P.wf = true) (r : RegName) :
    locate P (regAddr P r).toNat 4 = some (.reg r) := by
  obtain ⟨_, hm, ⟨hr, _, _⟩, _⟩ := Params.wf_ineqs h
  obtain ⟨ho, ho'⟩ := regOffset_lt r
  have ha : (regAddr P r).toNat = P.regBase + regOffset r := by
    rw [regAddr, BitVec.toNat_ofNat, Nat.mod_eq_of_lt (by omega)]
  have hw : inWindow P.regBase (P.regBase + regOffset r) = true := (inWindow_iff _ _).2 (by omega)
  have hd : (P.regBase + regOffset r) % 4 = 0 := by omega
  rw [ha, locate, if_pos hw, if_pos ⟨rfl, hd⟩, Nat.add_sub_cancel_left, regAtOffset_regOffset]
  rfl

theorem byteAddr_toNat_of_wf {P : Params} (h : P.wf = true) (b : Buf) {i : Nat} (hi : i < 0x10000) :
    (byteAddr P b i).toNat = bufBase P b + i := by
  obtain ⟨_, _, ⟨_, hf, hp⟩, _⟩ := Params.wf_ineqs h
  cases b <;> rw [byteAddr, BitVec.toNat_ofNat, Nat.mod_eq_of_lt] <;> simp only [bufBase] <;> omega

/-- What an access of `n` bytes inside a buffer's window designates on every legal instance. -/
theorem locate_window {P : Params} (h : P.wf = true) (b : Buf) {i : Nat} (hi : i < 0x10000) (n : Nat) :
    locate P (byteAddr P b i).toNat n = if n = 1 ∧ i < P.cap b then some (.byte b i) else none := by
  obtain ⟨_, _, _, h1, h2, h3⟩ := Params.wf_ineqs h
  rw [byteAddr_toNat_of_wf h b hi]
  have hr : ¬ inWindow P.regBase (bufBase P b + i) = true := by
    rw [inWindow_iff]
    cases b <;> simp only [bufBase] <;> omega
  rw [locate, if_neg hr]
  cases b with
  | frame =>
    have hw : inWindow P.frameBase (P.frameBase + i) = true := (inWindow_iff _ _).2 (by omega)
    simp only [bufBase, Params.cap, hw, if_true, Nat.add_sub_cancel_left]
    congr
  | payload =>
    have hf : ¬ inWindow P.frameBase (P.payloadBase + i) = true := by
      rw [inWindow_iff]
      omega
    have hw : inWindow P.payloadBase (P.payloadBase + i) = true := (inWindow_iff _ _).2 (by omega)
    simp only [bufBase, Params.cap, hf, hw, if_true, Nat.add_sub_cancel_left, if_false, Bool.false_eq_true]
    congr

/-- A byte that an access designates lies inside its buffer, on every instance. -/
theorem locate_byte_lt {P : Params} {a n i : Nat} {b : Buf} (h : locate P a n = some (.byte b i)) :
    i < P.cap b := by
  unfold locate at h
  split at h
  · split at h
    · obtain ⟨r, _, hr⟩ := Option.map_eq_some_iff.1 h
      cases hr
    · cases h
  · split at h
    · split at h
      · cases h
        exact (‹_ ∧ _›).2
      · cases h
    · split at h
      · split at h
        · cases h
          exact (‹_ ∧ _›).2
        · cases h
      · cases h

end Sys2Proof.Machine
end

