-- ==== Sys2Proof/Laws/PerInstr.lean ====
section
/-! SUPPORT. The family `Encoding`: the encoding of each command, one lemma per command. -/

namespace Sys2Proof.Laws.Encoding

/-- The command is well formed, its word is its operation code in bits 7:0 under 24 zero bits, and both
decoders give the command back from that word (spec/30_encoding.md R54, R55). -/
def Statement (i : Instr) : Prop :=
  i.wf = true ∧ zeroField (encode i) = 0 ∧ opcField (encode i) = opcode i ∧ decode (encode i) = .command i
    ∧ decodeTableWord 32 (encode i).toNat = some i

theorem nop : Statement .nop := by refine ⟨?_, ?_, ?_, ?_, ?_⟩ <;> decide
theorem cksum : Statement .cksum := by refine ⟨?_, ?_, ?_, ?_, ?_⟩ <;> decide
theorem parse : Statement .parse := by refine ⟨?_, ?_, ?_, ?_, ?_⟩ <;> decide
theorem serialize : Statement .serialize := by refine ⟨?_, ?_, ?_, ?_, ?_⟩ <;> decide
theorem srst : Statement .srst := by refine ⟨?_, ?_, ?_, ?_, ?_⟩ <;> decide

end Sys2Proof.Laws.Encoding
end

