-- ==== Sys2Proof/Laws/Runs.lean ====
section
/-! SUPPORT. Runs of host actions: one step of a run, the accesses of the host's statements, and a whole
`fill` at once. -/

namespace Sys2Proof.Machine

/-- The first of `k + 1` steps. -/
theorem runSteps_of_step {s t : State} (k : Nat) (h : step s = .next t) :
    runSteps (k + 1) s = runSteps k t := by
  simp [runSteps, h]

theorem byteAddr_toNat (b : Buf) (i : Nat) (h : i < 2000) :
    (byteAddr Config.params b i).toNat = bufBase Config.params b + i := by
  cases b <;> simp [byteAddr, bufBase, Config.params] <;> omega

/-- The address of a buffer byte designates that byte. -/
theorem locate_byteAddr (b : Buf) (i : Nat) (h : i < Config.params.cap b) :
    locate Config.params (byteAddr Config.params b i).toNat 1 = some (.byte b i) := by
  cases b
  · have h' : i < 2000 := h
    exact locate_frame (byteAddr_toNat .frame i h') h'
  · have h' : i < 1992 := h
    exact locate_payload (byteAddr_toNat .payload i (by omega)) h'

/-- `wr NAME, v` for a register other than `CMD`. -/
theorem step_wr {s : State} {r : RegName} {v : Word} {rest : List HostAction} (hr : r ≠ .CMD)
    (h : s.pending = wrAction Config.params r v :: rest) :
    step s = .next (writeReg r v (s.begin rest .completed)) := by
  rw [step_cons h]
  exact hostWrite_reg v _ (locate_regAddr r) hr

/-- `wrb B[i], v`. -/
theorem step_wrb {s : State} {b : Buf} {i : Nat} {v : Byte} {rest : List HostAction}
    (hi : i < Config.params.cap b) (h : s.pending = wrbAction Config.params b i v :: rest) :
    step s = .next ((s.begin rest .completed).storeByte b i v) := by
  rw [step_cons h]
  refine (hostWrite_byte _ _ (locate_byteAddr b i hi)).trans ?_
  have hv : (v.setWidth 32).setWidth 8 = v := by
    apply BitVec.eq_of_toNat_eq
    simp
  rw [hv]

/-- A `fill` that stays inside its buffer is the write of its byte sequence. -/
theorem runSteps_fill (b : Buf) (k : Nat) (bs : List Byte) (rest : List HostAction) (s : State) (n : Nat)
    (h : k + bs.length ≤ Config.params.cap b)
    (hp : s.pending = fillActions Config.params b k bs ++ rest) :
    ∃ r, runSteps (bs.length + n) s = runSteps n ((s.storeBytes b k bs).begin rest r) := by
  induction bs generalizing k s with
  | nil =>
    refine ⟨s.reply, ?_⟩
    have e : (s.storeBytes b k []).begin rest s.reply = s := by
      simp only [fillActions, List.nil_append] at hp
      cases b <;> (subst hp; rfl)
    rw [e, List.length_nil, Nat.zero_add]
  | cons v vs ih =>
    simp only [List.length_cons] at h ⊢
    have e : vs.length + 1 + n = (vs.length + n) + 1 := by omega
    rw [e, runSteps_of_step _ (step_wrb (by omega) hp)]
    obtain ⟨r, hr⟩ := ih (k + 1)
      ((s.begin (fillActions Config.params b (k + 1) vs ++ rest) .completed).storeByte b k v) (by omega)
      (by cases b <;> rfl)
    refine ⟨r, hr.trans ?_⟩
    cases b <;> rfl

end Sys2Proof.Machine
end

