-- ==== Sys2Proof/Tests/Slice0.lean ====
section
/-! SUPPORT. Tests with values from spec/95_test_vectors.md and from the tables of the rules, and for every
obligation with hypotheses a witness that meets them. -/

namespace Sys2Proof.Tests

open Sys2Proof.Machine

/-! ### Helpers -/

/-- A state with these lengths and window, and these bytes written at the start of the buffers. -/
def st (flen plen ckOff ckLen : Half) (fr pl : List Byte) : State :=
  { State.reset with
    flen := flen
    plen := plen
    ckOff := ckOff
    ckLen := ckLen
    frame := Memory.storeRange [] 0 fr
    payload := Memory.storeRange [] 0 pl }

/-- The same with the message registers of a request. -/
def msg (s : State) (type code : Byte) (ident seq : Half) : State :=
  { s with type := type, code := code, ident := ident, seq := seq }

/-- The state with these host actions to come. -/
def withHost (s : State) (acts : List HostAction) : State := { s with pending := acts }

/-- The next state, if there is one. -/
def nextOf (o : Host.Outcome State Fault Refusal) : Option State :=
  match o with
  | .next t => some t
  | .fault _ => none
  | .refused _ => none

/-- What the registers `rs` read after command `i`. -/
def readsAfter (i : Instr) (s : State) (rs : List RegName) : Option (List Word) :=
  (nextOf (exec i s)).map fun t => rs.map fun r => readReg Config.params r t

/-- What the host is given by its last action when it carries out `acts` one by one. -/
def replyAfter (s : State) (acts : List HostAction) : Option Reply :=
  (nextOf (runSteps acts.length (withHost s acts))).map State.reply

/-- The registers of a message. -/
def msgRegs : List RegName := [.TTL, .SRC, .DST, .TYPE, .CODE, .CHECKSUM, .IDENT, .SEQ]

/-- The frame of the vectors of section 2.2: `00 11 22 33 44 55`. -/
def frame6 : List Byte := [0x00, 0x11, 0x22, 0x33, 0x44, 0x55]

/-- The datagram of vector A2: byte i has the value i. -/
def dgramA2 : List Byte := (List.range 29).map (BitVec.ofNat 8)

/-- The datagram E of program P3. -/
def dgramE : List Byte :=
  [0x45, 0x00, 0x00, 0x1C, 0x00, 0x00, 0x00, 0x00, 0xFE, 0x01, 0x00, 0x00, 0x0A, 0x00, 0x00, 0x01, 0xC0, 0xA8,
    0x01, 0x02] ++ [0x0B, 0x00, 0xF4, 0xFF, 0x00, 0x00, 0x00, 0x00]

/-! ### WellFormed: each check refuses an ill-formed term -/

theorem test_wf_default : Config.params.wf = true := by decide
theorem test_wf_cap_low : Params.capWf { Config.params with frameCap := 27 } = false := by decide
theorem test_wf_cap_high : Params.capWf { Config.params with frameCap := 65536 } = false := by decide
theorem test_wf_cap_ends : Params.wf { Config.params with frameCap := 28 } = true
    ∧ Params.wf { Config.params with frameCap := 65535 } = true := by decide
theorem test_wf_types : Params.typesWf { Config.params with typeTtlExpired := 8 } = false
    ∧ Params.typesWf { Config.params with typeEchoReply := 8 } = false
    ∧ Params.typesWf { Config.params with typeTtlExpired := 0 } = false := by decide
theorem test_wf_bases_overlap : Params.basesWf { Config.params with payloadBase := 0x1FFFF } = false := by decide
theorem test_wf_bases_unaligned : Params.basesWf { Config.params with regBase := 2, frameBase := 0x10004 } = false := by
  decide
theorem test_wf_bases_outside : Params.basesWf { Config.params with payloadBase := 0x30001 } = false := by decide
theorem test_wf_action : (HostAction.read 0 2).wf = false ∧ (HostAction.write 0x10000 1 0x100).wf = false
    ∧ (HostAction.write 0x10000 1 0xFF).wf = true ∧ (HostAction.read 0 4).wf = true := by decide
theorem test_wf_memory : Memory.wf 4 [(1, 0), (1, 0)] = false ∧ Memory.wf 4 [(2, 0), (1, 0)] = false
    ∧ Memory.wf 4 [(4, 0)] = false ∧ Memory.wf 4 [(0, 0), (3, 0)] = true := by decide

/-! ### Decode: the words of R55 bit by bit, and the reserved words of section 2.5 -/

theorem test_decode_nop : decode 0b00000000000000000000000000000000 = .command .nop := by decide
theorem test_decode_cksum : decode 0b00000000000000000000000000000001 = .command .cksum := by decide
theorem test_decode_parse : decode 0b00000000000000000000000000000010 = .command .parse := by decide
theorem test_decode_serialize : decode 0b00000000000000000000000000000011 = .command .serialize := by decide
theorem test_decode_srst : decode 0b00000000000000000000000000000100 = .command .srst := by decide
theorem test_decode_reserved : decode 0x00000005 = .reserved .opcode ∧ decode 0x000000FF = .reserved .opcode
    ∧ decode 0x00000101 = .reserved .zeroField ∧ decode 0xFFFFFFFF = .reserved .zeroField
    ∧ decode 0x80000000 = .reserved .zeroField ∧ decode 0x00000100 = .reserved .zeroField := by decide
theorem test_encode : [Instr.nop, .cksum, .parse, .serialize, .srst].map encode
    = [0x00000000, 0x00000001, 0x00000002, 0x00000003, 0x00000004] := by decide
theorem test_decodeTableWord : decodeTableWord 32 2 = some .parse ∧ decodeTableWord 32 0x101 = none
    ∧ decodeTableWord 8 0x104 = some .srst := by decide

/-! ### `cksum16`: vectors of section 2.1 -/

theorem test_cksum16_short : cksum16 [] = 0xFFFF ∧ cksum16 [0xFF] = 0x00FF ∧ cksum16 [0x12] = 0xEDFF
    ∧ cksum16 [0x12, 0x34] = 0xEDCB ∧ cksum16 [0x12, 0x34, 0x56] = 0x97CB := by decide
theorem test_cksum16_folds : cksum16 [0x80, 0x00, 0x80, 0x00] = 0xFFFE
    ∧ cksum16 [0xFF, 0xFF, 0xFF, 0xFF, 0x00, 0x01] = 0xFFFE
    ∧ cksum16 [0xFF, 0xFF, 0xFF, 0xFF, 0x00, 0x02] = 0xFFFD
    ∧ cksum16 [0x00, 0x01, 0xF2, 0x03, 0xF4, 0xF5, 0xF6, 0xF7] = 0x220D := by decide

/-! ### The commands: vectors of sections 2.2 to 2.5 -/

/-- W2: odd offset, and W7: an empty window at the end of the frame. -/
theorem test_cksum_window : readsAfter .cksum (st 6 0 1 4 frame6 []) [.STATUS, .CSUM] = some [0x00, 0xBB99]
    ∧ readsAfter .cksum (st 6 0 6 0 frame6 []) [.STATUS, .CSUM] = some [0x00, 0xFFFF] := by decide

/-- W13: the window's end does not wrap; W15: `FLEN` above the capacity. -/
theorem test_cksum_errors : readsAfter .cksum (st 6 0 0xFFFF 2 frame6 []) [.STATUS, .CSUM] = some [0x04, 0]
    ∧ readsAfter .cksum (st 2001 0 0 0 frame6 []) [.STATUS, .CSUM] = some [0x04, 0] := by decide

/-- A2. -/
theorem test_parse_fields :
    readsAfter .parse (st 29 0 0 0 dgramA2 []) (msgRegs ++ [.PLEN, .STATUS, .FLEN, .TCLASS])
      = some [0x08, 0x0F0E0D0C, 0x13121110, 0x14, 0x15, 0x1617, 0x1819, 0x1A1B, 1, 0x00, 29, 0]
    ∧ (nextOf (exec .parse (st 29 0 0 0 dgramA2 []))).map (fun t => t.byte .payload 0) = some 0x1C := by decide

/-- E2, E4, E5: a failed parse leaves the message. -/
theorem test_parse_errors :
    readsAfter .parse (msg (st 19 5 0 0 dgramA2 []) 1 2 3 4) [.STATUS, .TYPE, .PLEN] = some [0x11, 1, 5]
    ∧ readsAfter .parse (msg (st 27 5 0 0 dgramA2 []) 1 2 3 4) [.STATUS, .TYPE, .PLEN] = some [0x12, 1, 5]
    ∧ readsAfter .parse (msg (st 2001 5 0 0 dgramA2 []) 1 2 3 4) [.STATUS, .TYPE, .PLEN] = some [0x04, 1, 5] := by
  decide

/-- Z5. -/
theorem test_serialize_bytes :
    let s := msg (st 0 3 0 0 [] [0x61, 0x62, 0x63]) 0x08 0x00 0xBEEF 0x0007
    readsAfter .serialize s [.STATUS, .FLEN, .CSUM, .CHECKSUM, .PLEN] = some [0x00, 11, 0x74A6, 0, 3]
      ∧ (nextOf (exec .serialize s)).map (fun t => t.bytes .frame 0 11)
        = some [0x08, 0x00, 0x74, 0xA6, 0xBE, 0xEF, 0x00, 0x07, 0x61, 0x62, 0x63] := by decide

/-- Z11, and Z3: a checksum of `0x0000` is not replaced. -/
theorem test_serialize_ends :
    readsAfter .serialize (st 7 1993 0 0 [] []) [.STATUS, .FLEN, .CSUM] = some [0x04, 7, 0]
    ∧ readsAfter .serialize (msg (st 0 0 0 0 [] []) 0xFF 0xFF 0xFFFF 0xFFFF) [.STATUS, .FLEN, .CSUM]
      = some [0x00, 8, 0x0000] := by decide

/-- N1. -/
theorem test_nop : readsAfter .nop { st 3 4 5 6 [] [] with status := .truncatedIpHeader }
    [.STATUS, .FLEN, .PLEN, .CK_OFF, .CK_LEN] = some [0, 3, 4, 5, 6] := by decide

/-- N6. -/
theorem test_srst :
    let s := msg (st 8 0 0 0 [0x08, 0x00, 0xE5, 0xCA] []) 8 0 0x1234 1
    readsAfter .srst s [.TYPE, .IDENT, .FLEN, .CSUM, .STATUS, .TCLASS] = some [0, 0, 0, 0, 0, 2]
      ∧ (nextOf (exec .srst s)).map (fun t => t.bytes .frame 0 4) = some [0x08, 0x00, 0xE5, 0xCA] := by decide

/-- N3, N5: a reserved word sets `IllegalCommand` and keeps the rest. -/
theorem test_reserved :
    replyAfter (st 6 0 0 6 frame6 []) [.write 0x00000 4 0x101, .read 0x00004 4] = some (.word 3)
    ∧ replyAfter (st 6 0 0 6 frame6 []) [.write 0x00000 4 0x80000000, .read 0x00018 4] = some (.word 0) := by decide

/-! ### Host accesses: vectors of sections 2.7 and 2.8 -/

/-- H1, H2, N8. -/
theorem test_bus_constants : replyAfter State.reset [.read 0x00048 4] = some (.word 0x49434D50)
    ∧ replyAfter State.reset [.read 0x00044 4] = some (.word 0x07C807D0)
    ∧ replyAfter State.reset [.read 0x00000 4] = some (.word 0) := by decide

/-- H3, H4, H5, H13. -/
theorem test_bus_write_read :
    replyAfter State.reset [.write 0x00020 4 0x1FF, .read 0x00020 4] = some (.word 0xFF)
    ∧ replyAfter State.reset [.write 0x00008 4 0x12345, .read 0x00008 4] = some (.word 0x2345)
    ∧ replyAfter State.reset [.write 0x00038 4 0xFFFFFFFF, .read 0x00038 4] = some (.word 0xFFFFFFFF)
    ∧ replyAfter State.reset [.write 0x10000 1 0x45, .read 0x10000 1] = some (.byte 0x45) := by decide

/-- H6, H7, H8: a write to a read-only register completes and is ignored. -/
theorem test_bus_read_only :
    replyAfter State.reset [.write 0x00004 4 0xFF, .read 0x00004 4] = some (.word 0)
    ∧ replyAfter State.reset [.write 0x00018 4 0x1234, .read 0x00018 4] = some (.word 0)
    ∧ replyAfter State.reset [.write 0x00040 4 1, .read 0x00040 4] = some (.word 2) := by decide

/-- H9 to H12, H15, H17 to H19: the accesses that are not mapped. -/
theorem test_bus_errors :
    [(0x0001C, 4), (0x0004C, 4), (0x0FFFC, 4), (0x00022, 4), (0x00021, 4), (0x00020, 1), (0x00020, 2), (0x107D0, 1),
      (0x207C8, 1), (0x10000, 4), (0x20000, 2), (0x30000, 1), (0x3FFFF, 1), (0x30000, 4)].map
        (fun p => locate Config.params p.1 p.2) = List.replicate 14 none := by decide

/-- H14, H16, H20, and the registers at the ends of the two groups of R15. -/
theorem test_bus_mapped :
    locate Config.params 0x107CF 1 = some (.byte .frame 1999)
    ∧ locate Config.params 0x207C7 1 = some (.byte .payload 1991)
    ∧ locate Config.params 0x10005 1 = some (.byte .frame 5)
    ∧ locate Config.params 0x00018 4 = some (.reg .CSUM) ∧ locate Config.params 0x00020 4 = some (.reg .TYPE) := by
  decide

/-- T1 to T6. -/
theorem test_tclass : [0x00, 0x08, 0x0B, 0x01, 0x03, 0xFF].map (tclassOf Config.params) = [2, 1, 3, 0, 0, 0] := by
  decide

/-- R64: `cksum k, n` is `wr CK_OFF, k`; `wr CK_LEN, n`; `cmd CKSUM`, with 32-bit data that the registers cut (R16). -/
theorem test_cksum_statement :
    expand Config.params (.cksum 0x10001 0x20004)
      = [.write 0x00010 4 0x10001, .write 0x00014 4 0x20004, .write 0x00000 4 1]
    ∧ replyAfter (st 6 0 0 0 frame6 []) (expandAll Config.params [.cksum 0x10001 0x20004, .rd .CSUM])
      = some (.word 0xBB99) := by decide

/-- R5, R38, R87, R34: another legal instance, with the smallest frame, other windows and another `ID`. -/
theorem test_other_instance :
    let P := { Config.params with frameCap := 28, regBase := 0x30000, payloadBase := 0x00000, blockId := 7 }
    P.wf = true
    ∧ (nextOf (stepAt P (withHost State.reset [.read 0x30048 4]))).map State.reply = some (.word 7)
    ∧ (nextOf (stepAt P (withHost (st 29 0 0 0 dgramA2 []) [.write 0x30000 4 2]))).map State.status
      = some .lengthRange
    ∧ (nextOf (stepAt P (withHost (st 28 0 0 0 dgramA2 []) [.write 0x30000 4 2]))).map State.status = some .none
    ∧ (nextOf (stepAt P (withHost State.reset [.read 0x00014 1]))).isNone = true := by decide

/-- R65: the transfers the spec writes out. -/
theorem test_transfers : cmdAction Config.params .parse = .write 0x00000 4 0x00000002
    ∧ wrAction Config.params .FLEN 28 = .write 0x00008 4 0x0000001C
    ∧ wrbAction Config.params .frame 8 0x37 = .write 0x10008 1 0x37
    ∧ rdAction Config.params .STATUS = .read 0x00004 4 ∧ rdbAction Config.params .payload 0 = .read 0x20000 1 := by
  decide

/-! ### Witnesses: for every obligation with hypotheses, states and operands that meet them -/

/-- Clauses 3 and 4 at their ends; the last word meets both, with the one outcome `reserved`. -/
theorem witness_DecodeComparesTheWholeWord :
    (Instr.srst.wf = true ∧ encode .srst = 4) ∧ (0x00000100 : Word).extractLsb 31 8 ≠ 0
    ∧ (0x80000000 : Word).extractLsb 31 8 ≠ 0 ∧ 4 < ((0x00000005 : Word).extractLsb 7 0).toNat
    ∧ ((0xFFFFFFFF : Word).extractLsb 31 8 ≠ 0 ∧ 4 < ((0xFFFFFFFF : Word).extractLsb 7 0).toNat) := by decide

theorem witness_ReservedWordRaisesIllegalCommand :
    ((withHost State.reset [.write 0x00000 4 5]).pending = [.write 0x00000 4 5] ∧ 5 ≤ (5 : Word).toNat)
    ∧ 5 ≤ (0xFFFFFFFF : Word).toNat := by decide

theorem witness_StepRunsTheDecodedCommand :
    ((withHost State.reset [.write 0x00000 4 3, .reset]).pending = [.write 0x00000 4 3, .reset]
      ∧ decode 3 = .command .serialize ∧ Instr.serialize.wf = true)
    ∧ decodeTableWord 32 4 = some .srst ∧ decodeTableWord 8 0x101 = some .cksum := by decide

theorem witness_BlockWaitsForTheHost : State.reset.pending = [] := by decide

theorem witness_EveryCommandWriteCompletes :
    (withHost (st 2001 0 0 0 [] []) [.write 0x00000 4 0xFFFFFFFF, .read 4 4]).pending
      = [.write 0x00000 4 0xFFFFFFFF, .read 4 4] := by decide

theorem witness_HardwareResetFromAnyState :
    (withHost (st 1 2 3 4 frame6 []) [.reset, .read 4 4]).pending = [.reset, .read 4 4] := by decide

/-- Each of the three clauses: an `RW` register (`TYPE` with a word that is cut, `SRC` at full width), an `RO`
register, a read (of `CMD`, and of `ID`). -/
theorem witness_RegisterAccessTruncatesAndExtends :
    (regAccess .TYPE = .readWrite ∧ (withHost State.reset [.write 0x00020 4 0x1FF]).pending
      = [.write (regAddr Config.params .TYPE) 4 0x1FF])
    ∧ (regAccess .SRC = .readWrite ∧ (withHost State.reset [.write 0x00038 4 0xFFFFFFFF]).pending
      = [.write (regAddr Config.params .SRC) 4 0xFFFFFFFF])
    ∧ (regAccess .STATUS = .readOnly ∧ (withHost State.reset [.write 0x00004 4 0xFF]).pending
      = [.write (regAddr Config.params .STATUS) 4 0xFF])
    ∧ (withHost State.reset [.read 0x00000 4]).pending = [.read (regAddr Config.params .CMD) 4]
    ∧ (withHost State.reset [.read 0x00048 4]).pending = [.read (regAddr Config.params .ID) 4] := by decide

/-- The default parameters and others; each of the four classes. -/
theorem witness_TclassIsTheClassOfType :
    Params.wf { Config.params with typeEchoReply := 255, typeEchoRequest := 0 } = true
    ∧ Config.params.wf = true ∧ (msg State.reset 8 0 0 0).type = Config.params.typeEchoRequest
    ∧ (msg State.reset 0 0 0 0).type = Config.params.typeEchoReply
    ∧ (msg State.reset 11 0 0 0).type = Config.params.typeTtlExpired
    ∧ ((msg State.reset 1 0 0 0).type ≠ Config.params.typeEchoRequest
      ∧ (msg State.reset 1 0 0 0).type ≠ Config.params.typeEchoReply
      ∧ (msg State.reset 1 0 0 0).type ≠ Config.params.typeTtlExpired) := by decide

theorem witness_CapsAndIdAreConstants : Params.wf { Config.params with frameCap := 28 } = true
    ∧ Params.wf { Config.params with frameCap := 65535 } = true := by decide

/-- Both buffers, the first and the last mapped index; a read and a write. -/
theorem witness_BufferBytesReadAndWrite :
    (Buf.frame = .frame ∧ 0 < 2000 ∧ (0x10000 : Addr).toNat = 0x10000 + 0)
    ∧ (Buf.frame = .frame ∧ 1999 < 2000 ∧ (0x107CF : Addr).toNat = 0x10000 + 1999)
    ∧ (Buf.payload = .payload ∧ 0 < 1992 ∧ (0x20000 : Addr).toNat = 0x20000 + 0)
    ∧ (Buf.payload = .payload ∧ 1991 < 1992 ∧ (0x207C7 : Addr).toNat = 0x20000 + 1991)
    ∧ (withHost State.reset [.read 0x207C7 1]).pending = [.read 0x207C7 1]
    ∧ (withHost State.reset [.write 0x107CF 1 0xFF]).pending
      = [.write 0x107CF 1 ((0xFF : Byte).setWidth 32)] := by decide

/-- Mapped and unmapped accesses on both sides of every boundary of the map. -/
theorem witness_UnmappedAccessIsABusError :
    (withHost State.reset [.read 0x0001C 4]).pending = [.read 0x0001C 4]
    ∧ (¬ Mapped 0x0001C 4 ∧ ¬ Mapped 0x0004C 4 ∧ ¬ Mapped 0x00021 4 ∧ ¬ Mapped 0x00000 1 ∧ ¬ Mapped 0x0FFFF 1
      ∧ ¬ Mapped 0x107D0 1 ∧ ¬ Mapped 0x10000 4 ∧ ¬ Mapped 0x207C8 1 ∧ ¬ Mapped 0x30000 1)
    ∧ (Mapped 0x00000 4 ∧ Mapped 0x00018 4 ∧ Mapped 0x00020 4 ∧ Mapped 0x00048 4 ∧ Mapped 0x10000 1
      ∧ Mapped 0x107CF 1 ∧ Mapped 0x20000 1 ∧ Mapped 0x207C7 1) := by
  refine ⟨rfl, ⟨?_, ?_, ?_, ?_, ?_, ?_, ?_, ?_, ?_⟩, ⟨?_, ?_, ?_, ?_, ?_, ?_, ?_, ?_⟩⟩ <;> unfold Mapped <;> decide

/-- A repeated `SERIALIZE`, and a repeated byte write. -/
theorem witness_RepeatedAccessIsIdempotent :
    (∀ act ∈ [HostAction.write 0x00000 4 3, .write 0x10000 1 7],
      (withHost (st 0 1 0 0 [] [9]) [act, act]).wf Config.params = true
        ∧ (withHost (st 0 1 0 0 [] [9]) [act, act]).pending = act :: act :: [] ∧ act ≠ .reset
        ∧ ((nextOf (step (withHost (st 0 1 0 0 [] [9]) [act, act]))).bind fun t => nextOf (step t)).isSome = true) := by
  decide

theorem witness_ReadsChangeNoState :
    (withHost State.reset [.read 0x0001C 4]).pending = [.read 0x0001C 4]
    ∧ (withHost State.reset [.read 0x00004 4]).pending = [.read 0x00004 4] := by decide

/-- A command that fails, and a reserved word. -/
theorem witness_FailedCommandChangesStatusOnly :
    (nextOf (exec .parse State.reset)).map (fun t => decide (t.status ≠ .none)) = some true
    ∧ (nextOf (runCommand Config.params 5 State.reset)).map (fun t => decide (t.status ≠ .none)) = some true := by decide

/-- The last passing and the first failing value of each length. -/
theorem witness_LengthRangeExactlyAsListed :
    readsAfter .cksum (st 2 0 2 0 frame6 []) [.STATUS] = some [0]
    ∧ readsAfter .cksum (st 2 0 2 1 frame6 []) [.STATUS] = some [4]
    ∧ readsAfter .serialize (st 0 1993 0 0 [] []) [.STATUS] = some [4]
    ∧ readsAfter .parse (st 2001 0 0 0 [] []) [.STATUS] = some [4] := by decide

/-- The first and the last length of each outcome (the successes: `witness_ParseFillsTheMessage`). -/
theorem witness_ParseTruncationByLengthAlone :
    readsAfter .parse (st 0 0 0 0 [] []) [.STATUS] = some [0x11]
    ∧ readsAfter .parse (st 19 0 0 0 dgramE []) [.STATUS] = some [0x11]
    ∧ readsAfter .parse (st 20 0 0 0 dgramE []) [.STATUS] = some [0x12]
    ∧ readsAfter .parse (st 27 0 0 0 dgramE []) [.STATUS] = some [0x12]
    ∧ readsAfter .parse (st 28 0 0 0 dgramE []) [.STATUS] = some [0x00] := by decide

theorem witness_OnlyCommandWritesChangeStatus :
    (hostStep (withHost State.reset [.write 0x00000 4 5])).status ≠ State.reset.status
    ∧ (hostStep (withHost { State.reset with status := .lengthRange } [.reset])).status ≠ .lengthRange := by decide

/-- Values of the fold on both sides of `0x10000`, zero, and a multiple of `0xFFFF`. -/
theorem witness_FoldNeedsAtMostTwoSteps :
    0x10000 ≤ (0x10000 : Word).toNat ∧ 0x10000 ≤ (0xFFFFFFFF : Word).toNat ∧ (0xFFFF : Word).toNat < 0x10000
    ∧ 0x10000 ≤ (foldStep 0x1FFFF).toNat ∧ fold 0 = 0 ∧ (0 < (0x1FFFE : Word).toNat ∧ fold 0x1FFFE = 0xFFFF ∧ (0x1FFFE : Word).toNat % 0xFFFF = 0)
    ∧ (0 < (0x1FFFF : Word).toNat ∧ fold 0x1FFFF = 1) := by decide

/-- A sequence of the largest length, and one of the largest ICE can form. -/
theorem witness_AccumulatorNeverWraps :
    (List.replicate 131074 (0xFF : Byte)).length ≤ 131074 ∧ (List.replicate 65535 (0xFF : Byte)).length ≤ 65535 :=
  ⟨le_of_eq List.length_replicate, le_of_eq List.length_replicate⟩

theorem witness_ChecksumIsFFFFExactlyOnZeros :
    (List.replicate 131074 (0x00 : Byte)).length ≤ 131074 ∧ ([] : List Byte).length ≤ 131074 :=
  ⟨le_of_eq List.length_replicate, Nat.zero_le _⟩

/-- One sequence for each of the three cases. -/
theorem witness_ChecksumClosedForm :
    (([0x00, 0x00] : List Byte).length ≤ 131074 ∧ wordSum [0x00, 0x00] = 0)
    ∧ (wordSum [0xFF, 0xFF] ≠ 0 ∧ wordSum [0xFF, 0xFF] % 0xFFFF = 0)
    ∧ wordSum [0x12, 0x34, 0x56] % 0xFFFF ≠ 0 := by decide

/-- The field of R79 at byte 2, and at byte 0 of the shortest sequence. -/
theorem witness_StoredChecksumVerifies :
    (∃ bs : List Byte, bs.length ≤ 65535 ∧ 2 % 2 = 0 ∧ 2 + 1 < bs.length ∧ bs[2]? = some 0 ∧ bs[2 + 1]? = some 0
      ∧ bs[0]? = some 0x45)
    ∧ ∃ bs : List Byte, bs.length ≤ 65535 ∧ 0 % 2 = 0 ∧ 0 + 1 < bs.length ∧ bs[0]? = some 0
      ∧ bs[0 + 1]? = some 0 := by
  refine ⟨⟨[0x45, 0x11, 0, 0, 0x7F], ?_⟩, ⟨[0, 0], ?_⟩⟩ <;> decide

theorem witness_ChecksumOrderAndPadding :
    (wordSum [0x80, 0x00, 0x80, 0x00] = wordSum [0xFF, 0xFF, 0x00, 0x01]) ∧
    ([((0xFF : Byte), (0xFF : Byte)), (0, 1)].Perm [(0, 1), (0xFF, 0xFF)] ∧ ([0x12] : List Byte).length ≤ 1)
    ∧ ([0x12, 0x34, 0x56] : List Byte).length % 2 = 1 := by decide

/-- Each clause at its ends: `FLEN` 2000 and 2001, a window that ends at the frame's end and one byte beyond. -/
theorem witness_CksumSumsTheWindow :
    ((st 2000 0 1999 1 [] []).flen.toNat ≤ 2000
      ∧ (st 2000 0 1999 1 [] []).ckOff.toNat + (st 2000 0 1999 1 [] []).ckLen.toNat
        ≤ (st 2000 0 1999 1 [] []).flen.toNat)
    ∧ 2000 < (st 2001 0 0 0 [] []).flen.toNat
    ∧ (st 2000 0 1999 2 [] []).flen.toNat
      < (st 2000 0 1999 2 [] []).ckOff.toNat + (st 2000 0 1999 2 [] []).ckLen.toNat := by decide

theorem witness_ParseOutcomeByLength :
    parseDgram (dgramE.take 19) = .error .truncatedIpHeader ∧ (dgramE.take 19).length ≤ 19
    ∧ parseDgram (dgramE.take 20) = .error .truncatedIcmpHeader ∧ 20 ≤ (dgramE.take 20).length
    ∧ parseDgram (dgramE.take 27) = .error .truncatedIcmpHeader ∧ (dgramE.take 27).length ≤ 27
    ∧ parseDgram dgramE = .message (messageOf dgramE) ∧ 28 ≤ dgramE.length := by decide

/-- Two datagrams that differ in the ignored bytes 0 and 9 only. -/
theorem witness_ParseIgnoresTheOtherHeaderBytes :
    dgramE ≠ (dgramE.set 0 0xFF).set 9 0xFF ∧ dgramE.length = ((dgramE.set 0 0xFF).set 9 0xFF).length
    ∧ ∀ k, k = 8 ∨ 12 ≤ k → dgramE[k]? = ((dgramE.set 0 0xFF).set 9 0xFF)[k]? := by
  refine ⟨by decide, by decide, fun k hk => ?_⟩
  rw [List.getElem?_set_ne (by omega), List.getElem?_set_ne (by omega)]

/-- Each clause at its ends: `FLEN` 28 and 2000; 2001; 0 and 19; 20 and 27. -/
theorem witness_ParseFillsTheMessage :
    (28 ≤ (st 28 0 0 0 dgramE []).flen.toNat ∧ (st 28 0 0 0 dgramE []).flen.toNat ≤ 2000)
    ∧ (28 ≤ (st 2000 0 0 0 [] []).flen.toNat ∧ (st 2000 0 0 0 [] []).flen.toNat ≤ 2000)
    ∧ 2000 < (st 2001 0 0 0 [] []).flen.toNat
    ∧ (st 0 0 0 0 [] []).flen.toNat < 20 ∧ (st 19 0 0 0 [] []).flen.toNat < 20
    ∧ (20 ≤ (st 20 0 0 0 [] []).flen.toNat ∧ (st 20 0 0 0 [] []).flen.toNat ≤ 27)
    ∧ (20 ≤ (st 27 0 0 0 [] []).flen.toNat ∧ (st 27 0 0 0 [] []).flen.toNat ≤ 27) := by decide

/-- Each clause at its ends: `PLEN` 0, 1992 and 1993. -/
theorem witness_SerializeBuildsTheSegment :
    (st 0 0 0 0 [] []).plen.toNat ≤ 1992 ∧ (st 0 1992 0 0 [] []).plen.toNat ≤ 1992
    ∧ 1992 < (st 0 1993 0 0 [] []).plen.toNat := by decide

theorem witness_LengthLaw :
    (nextOf (exec .serialize (st 0 3 0 0 [] [1, 2, 3]))).map (fun t => t.status) = some .none
    ∧ (nextOf (exec .parse (st 28 0 0 0 dgramE []))).map (fun t => t.status) = some .none := by decide

theorem witness_EmbeddedChecksumIsRecomputed :
    ∃ s t : State, exec .serialize s = .next t ∧ t.status = .none := ⟨st 0 3 0 0 [] [1, 2, 3], _, rfl, by decide⟩

/-- A message of the largest length; a serialized state; a loaded datagram whose checksum field is right. -/
theorem witness_SerializedMessageVerifies :
    (∃ m : IcmpMessage, m.payload.length ≤ 65527 ∧ m.payload.length = 65527)
    ∧ (∃ s t : State, exec .serialize s = .next t ∧ t.status = .none)
    ∧ (28 ≤ (st 28 0 0 0 dgramE []).flen.toNat ∧ (st 28 0 0 0 dgramE []).flen.toNat ≤ 2000
      ∧ getHalf ((st 28 0 0 0 dgramE []).bytes .frame 20 ((st 28 0 0 0 dgramE []).flen.toNat - 20)) 2
        = cksum16 (putHalf ((st 28 0 0 0 dgramE []).bytes .frame 20 ((st 28 0 0 0 dgramE []).flen.toNat - 20)) 2 0)) := by
  refine ⟨⟨{ messageOf dgramE with payload := List.replicate 65527 0xFF }, le_of_eq List.length_replicate,
    List.length_replicate⟩, ?_, by decide⟩
  exact witness_EmbeddedChecksumIsRecomputed

/-- A message and a header that agree in the four fields, and one that does not. -/
theorem witness_ParseOfSerializeReturnsTheMessage :
    (dgramE.take 20).length = 20
    ∧ parseDgram (dgramE.take 20 ++ serializeMsg (messageOf dgramE)) = .message (messageOf dgramE)
    ∧ parseDgram (dgramE.take 20 ++ serializeMsg { messageOf dgramE with ttl := 1 })
      ≠ .message { messageOf dgramE with ttl := 1 } := by decide

/-- The datagram E, whose field is right; and L7, a segment of eight `FF`, where the field is `0xFFFF` and `0x0000`
is computed. -/
theorem witness_SerializeOfParseReturnsTheSegment :
    ((dgramE.drop 20).length ≤ 131074 ∧ parseDgram dgramE = .message (messageOf dgramE)
      ∧ getHalf (dgramE.drop 20) 2 = cksum16 (putHalf (dgramE.drop 20) 2 0) ∧ cksum16 (dgramE.drop 20) = 0x0000)
    ∧ (∃ m, parseDgram (List.replicate 28 0xFF) = .message m)
    ∧ 0 < wordSum (putHalf ((List.replicate 28 (0xFF : Byte)).drop 20) 2 0)
    ∧ wordSum (putHalf ((List.replicate 28 (0xFF : Byte)).drop 20) 2 0) % 0xFFFF = 0
    ∧ getHalf ((List.replicate 28 (0xFF : Byte)).drop 20) 2 = 0xFFFF
    ∧ cksum16 ((List.replicate 28 (0xFF : Byte)).drop 20) = 0x0000 := by
  refine ⟨by decide, ⟨_, rfl⟩, by decide, by decide, by decide, by decide⟩

/-- Two different states with equal registers and equal bytes below the lengths, and `CKSUM` run on both. -/
theorem witness_CommandsNeverReadBeyondTheLengths :
    ∃ s s' t t' : State, s ≠ s' ∧ (∀ r, readReg Config.params r s = readReg Config.params r s')
      ∧ (∀ k, k < s.flen.toNat → s.byte .frame k = s'.byte .frame k)
      ∧ (∀ k, k < s.plen.toNat → s.byte .payload k = s'.byte .payload k)
      ∧ exec .cksum s = .next t ∧ exec .cksum s' = .next t' := by
  refine ⟨st 2 1 0 2 [1, 2, 3] [4, 5], st 2 1 0 2 [1, 2, 7] [4, 8], _, _, by decide, fun r => ?_, by decide,
    by decide, rfl, rfl⟩
  cases r <;> rfl

theorem witness_EveryStepKeepsTheBuffersCanonical :
    (∃ s t : State, s.wf Config.params = true ∧ step s = .next t ∧ s ≠ t)
    ∧ ∃ (P : Params) (s t : State), P.wf = true ∧ s.wf P = true ∧ stepAt P s = .next t ∧ s ≠ t :=
  ⟨⟨withHost (st 0 1 0 0 [] [9]) [.write 0x107CF 1 7], _, by decide, rfl, by decide⟩,
    ⟨{ Config.params with frameCap := 28 }, withHost (st 0 1 0 0 [] [9]) [.write 0x1001B 1 7], _, by decide,
      by decide, rfl, by decide⟩⟩

/-- The smallest and the largest legal capacity, with a full frame and a full payload. -/
theorem witness_LegalParametersKeepBuffersInBounds :
    ∀ c ∈ [28, 65535], Params.wf { Config.params with frameCap := c } = true
      ∧ State.reset.wf { Config.params with frameCap := c } = true
      ∧ (st (BitVec.ofNat 16 c) 0 0 0 [] []).flen.toNat = c
      ∧ (st 0 (BitVec.ofNat 16 (c - 8)) 0 0 [] []).plen.toNat
        = Params.payCap { Config.params with frameCap := c } := by decide

/-- A legal instance with its windows moved: each clause, the buffers' first and last index, and the accesses on
both sides of the capacity. -/
theorem witness_EveryLegalInstanceMapsItsWindows :
    let P := { Config.params with frameCap := 28, regBase := 0x30000, payloadBase := 0x00000 }
    P.wf = true
    ∧ (withHost State.reset [.read 0x30048 4]).pending = [.read (regAddr P .ID) 4]
    ∧ (withHost State.reset [.write 0x30000 4 2]).pending = [.write (regAddr P .CMD) 4 2]
    ∧ (27 < P.cap .frame ∧ (withHost State.reset [.read 0x1001B 1]).pending = [.read (byteAddr P .frame 27) 1])
    ∧ (0 < P.cap .payload ∧ (withHost State.reset [.write 0x00000 1 9]).pending
      = [.write (byteAddr P .payload 0) 1 ((9 : Byte).setWidth 32)])
    ∧ (28 < 0x10000 ∧ P.cap .frame ≤ 28
      ∧ (withHost State.reset [.read 0x1001C 1]).pending = [.read (byteAddr P .frame 28) 1])
    ∧ (0xFFFF < 0x10000 ∧ P.cap .payload ≤ 0xFFFF
      ∧ (withHost State.reset [.read 0x0FFFF 4]).pending = [.read (byteAddr P .payload 0xFFFF) 4]) := by decide

/-- The smallest capacity, with each length on both sides of it. -/
theorem witness_EveryLegalInstanceRunsTheContracts :
    let P := { Config.params with frameCap := 28 }
    P.wf = true
    ∧ ((st 28 0 28 0 [] []).flen.toNat ≤ P.frameCap
      ∧ (st 28 0 28 0 [] []).ckOff.toNat + (st 28 0 28 0 [] []).ckLen.toNat ≤ (st 28 0 28 0 [] []).flen.toNat)
    ∧ P.frameCap < (st 29 0 0 0 [] []).flen.toNat
    ∧ (st 28 0 28 1 [] []).flen.toNat < (st 28 0 28 1 [] []).ckOff.toNat + (st 28 0 28 1 [] []).ckLen.toNat
    ∧ (st 0 20 0 0 [] []).plen.toNat ≤ P.frameCap - 8 ∧ P.frameCap - 8 < (st 0 21 0 0 [] []).plen.toNat := by decide

/-- A `fill` that ends at the last index of each buffer, a full `ldf` and `ldp`, and data above 16 bits. -/
theorem witness_PseudoStatementsExpandAsTabled :
    (1998 + ([1, 2] : List Byte).length ≤ Config.params.cap .frame
      ∧ (withHost State.reset (expandAll Config.params [.fill .frame 1998 [1, 2]])).pending
        = expandAll Config.params [.fill .frame 1998 [1, 2]])
    ∧ 1990 + ([1, 2] : List Byte).length ≤ Config.params.cap .payload
    ∧ (List.replicate 2000 (0xFF : Byte)).length ≤ 2000 ∧ (List.replicate 1992 (0xFF : Byte)).length ≤ 1992
    ∧ (∃ s : State, s.pending = expandAll Config.params [.ldf [1]])
    ∧ (∃ s : State, s.pending = expandAll Config.params [.ldp []])
    ∧ ∃ s : State, s.pending = expandAll Config.params [.cksum 0xFFFFFFFF 0x10000] :=
  ⟨by decide, by decide, le_of_eq List.length_replicate, le_of_eq List.length_replicate, ⟨withHost State.reset _, rfl⟩,
    ⟨withHost State.reset _, rfl⟩, ⟨withHost State.reset _, rfl⟩⟩

/-- A sequence of the largest length, and the host's list for three bytes. -/
theorem witness_ChecksumCallSequence :
    (List.replicate 2000 (0xFF : Byte)).length ≤ 2000
    ∧ ([0x12, 0x34, 0x56] : List Byte).length ≤ 2000
    ∧ replyAfter State.reset (expandAll Config.params [.ldf [0x12, 0x34, 0x56], .cksum 0 3, .rd .CSUM])
      = some (.word 0x97CB) := by
  exact ⟨le_of_eq List.length_replicate, by decide, by decide⟩

theorem witness_ParseCallSequence :
    (List.replicate 2000 (0xFF : Byte)).length ≤ 2000 ∧ dgramE.length ≤ 2000
    ∧ (withHost State.reset (expandAll Config.params [.ldf dgramE, .cmd .parse])).pending
      = expandAll Config.params [.ldf dgramE, .cmd .parse] := by
  exact ⟨le_of_eq List.length_replicate, by decide, rfl⟩

theorem witness_SerializeCallSequence :
    (∃ m : IcmpMessage, m.payload.length ≤ 1992 ∧ m.payload.length = 1992)
    ∧ (messageOf dgramA2).payload.length ≤ 1992
    ∧ ∃ s : State, s.pending = expandAll Config.params
      [.wr .TYPE ((messageOf dgramA2).type.setWidth 32), .wr .CODE ((messageOf dgramA2).code.setWidth 32),
        .wr .IDENT ((messageOf dgramA2).identifier.setWidth 32),
        .wr .SEQ ((messageOf dgramA2).sequenceNumber.setWidth 32), .ldp (messageOf dgramA2).payload,
        .cmd .serialize] := by
  exact ⟨⟨{ messageOf dgramE with payload := List.replicate 1992 0xFF }, le_of_eq List.length_replicate,
    List.length_replicate⟩, by decide, withHost State.reset _, rfl⟩

end Sys2Proof.Tests
end

/-! ## Proofs: the scope of the model (spec/00_scope.md) -/

section
/-! SUPPORT. What a host read answers, and the bytes and messages of the states that the commands leave. -/

namespace Sys2Proof.Machine

/-! ### Host reads, by what the address designates -/

theorem hostRead_reg {P : Params} {a : Addr} {n : Nat} {r : RegName} (s : State)
    (h : locate P a.toNat n = some (.reg r)) :
    hostRead P a n s = .next (s.setReply (.word (readReg P r s))) := by
  unfold hostRead
  rw [h]

theorem hostRead_byte {P : Params} {a : Addr} {n : Nat} {b : Buf} {i : Nat} (s : State)
    (h : locate P a.toNat n = some (.byte b i)) :
    hostRead P a n s = .next (s.setReply (.byte (s.byte b i))) := by
  unfold hostRead
  rw [h]

theorem hostRead_none {P : Params} {a : Addr} {n : Nat} (s : State) (h : locate P a.toNat n = none) :
    hostRead P a n s = .refused (.busError a n) := by
  unfold hostRead
  rw [h]

/-! ### What taking an action off the host's list leaves -/

@[simp] theorem readReg_begin (P : Params) (r : RegName) (s : State) (rest : List HostAction) (y : Reply) :
    readReg P r (s.begin rest y) = readReg P r s := by cases r <;> rfl

@[simp] theorem State.byte_begin (s : State) (rest : List HostAction) (y : Reply) (b : Buf) (i : Nat) :
    (s.begin rest y).byte b i = s.byte b i := State.byte_congr (by cases b <;> rfl) rfl i

/-! ### Buffer bytes that stay -/

/-- A buffer that is the same data, with the same count of resets, keeps all its bytes. -/
theorem bytesKept_of_buf {s t : State} {b : Buf} {stored : Nat → Prop} (hb : t.buf b = s.buf b)
    (hr : t.resets = s.resets) : BytesKept b stored s t := fun i _ => State.byte_congr hb hr i

/-- A command that fails touches no buffer byte. -/
theorem bytesKept_raise (s : State) (e : CmdError) (b : Buf) (stored : Nat → Prop) :
    BytesKept b stored s (s.raise e) := bytesKept_of_buf (by cases b <;> rfl) rfl

/-- The write of one byte keeps every other byte of its buffer. -/
theorem bytesKept_storeByte_same (s : State) (b : Buf) (i : Nat) (v : Byte) :
    BytesKept b (fun k => k = i) s (s.storeByte b i v) := fun j hj => by
  rw [State.byte_storeByte, if_neg fun h => hj h.2.symm]

/-- The write of one byte keeps every byte of the other buffer. -/
theorem bytesKept_storeByte_other (s : State) {b b' : Buf} (i : Nat) (v : Byte) (hb : b' ≠ b) :
    BytesKept b' (fun _ => False) s (s.storeByte b i v) := fun j _ => by
  rw [State.byte_storeByte, if_neg fun h => hb h.1.symm]

/-! ### The state a successful `PARSE` leaves -/

theorem parsedState_plen_toNat (s : State) : (parsedState s).plen.toNat = s.flen.toNat - 28 := by
  have := s.flen.isLt
  simp only [parsedState, State.succeed_plen, State.storeBytes_plen, State.setPlen_plen, BitVec.toNat_ofNat]
  omega

/-- The bytes of `PAYLOAD` after `PARSE`: the frame from byte 28 on, below the new `PLEN`. -/
theorem parsedState_byte_payload (s : State) (k : Nat) :
    (parsedState s).byte .payload k
      = if k < s.flen.toNat - 28 then s.byte .frame (28 + k) else s.byte .payload k := by
  have hsucc : (parsedState s).byte .payload k
      = (s.storeBytes .payload 0 (s.bytes .frame 28 (s.flen.toNat - 28))).byte .payload k := rfl
  rw [hsucc, State.byte_storeBytes]
  by_cases hk : k < s.flen.toNat - 28
  · simp [hk]
  · simp [hk]

/-- The message that `PARSE` leaves in the registers and in `PAYLOAD` is the message of the frame. -/
theorem message_parsedState (s : State) :
    (parsedState s).message = messageOf (s.bytes .frame 0 s.flen.toNat) := by
  have hpay : (parsedState s).bytes .payload 0 (parsedState s).plen.toNat
      = (messageOf (s.bytes .frame 0 s.flen.toNat)).payload := by
    simp only [messageOf, State.drop_bytes, parsedState_plen_toNat]
    refine List.ext_getElem (by simp; omega) fun k hk _ => ?_
    rw [State.length_bytes] at hk
    simp [parsedState_byte_payload, hk]
  rw [State.message, hpay]
  rfl

/-- On a frame within the capacity, `PARSE` leaves what `parse_dgram` returns on it: the message, or the error
with nothing else changed (R87). -/
theorem parseCommand_result {P : Params} {s : State} (h : s.flen.toNat ≤ P.frameCap) :
    parseDgram (s.bytes .frame 0 s.flen.toNat)
        = (if (parseCommand P s).status = .none then .message (parseCommand P s).message
          else .error (parseCommand P s).status)
      ∧ ((parseCommand P s).status ≠ .none
        → parseCommand P s = { s with status := (parseCommand P s).status }) := by
  rcases parseCommand_cases P s with ⟨hc, _⟩ | ⟨_, hl, e⟩ | ⟨_, hl, hl', e⟩ | ⟨_, hl, e⟩
  · omega
  · rw [e, parseDgram_short (by simpa using hl)]
    exact ⟨rfl, fun _ => rfl⟩
  · rw [e, parseDgram_middle (by simpa using hl) (by simpa using hl')]
    exact ⟨rfl, fun _ => rfl⟩
  · have hs : (parsedState s).status = .none := rfl
    rw [e, parseDgram_long (by simpa using hl), message_parsedState]
    exact ⟨by rw [if_pos hs], fun hn => absurd hs hn⟩

/-- What `PARSE` never changes (R87): `FRAME`, `PAYLOAD` beyond the message, `FLEN` and the checksum registers. -/
def ParseKeeps (s t : State) : Prop :=
  BytesKept .frame (fun _ => False) s t ∧ BytesKept .payload (fun k => k + 28 < s.flen.toNat) s t
    ∧ t.flen = s.flen ∧ t.csum = s.csum ∧ t.ckOff = s.ckOff ∧ t.ckLen = s.ckLen ∧ OwnKept s t

theorem parseKeeps_raise (s : State) (e : CmdError) : ParseKeeps s (s.raise e) :=
  ⟨bytesKept_raise s e _ _, bytesKept_raise s e _ _, rfl, rfl, rfl, rfl, rfl, rfl, rfl⟩

theorem parseKeeps_parsedState (s : State) : ParseKeeps s (parsedState s) := by
  refine ⟨bytesKept_of_buf rfl rfl, fun k hk => ?_, rfl, rfl, rfl, rfl, rfl, rfl, rfl⟩
  rw [parsedState_byte_payload, if_neg (by omega)]

/-- `PARSE` keeps these whatever its outcome. -/
theorem parseKeeps_parseCommand (P : Params) (s : State) : ParseKeeps s (parseCommand P s) := by
  rcases parseCommand_cases P s with ⟨_, e⟩ | ⟨_, _, e⟩ | ⟨_, _, _, e⟩ | ⟨_, _, e⟩ <;> rw [e]
  · exact parseKeeps_raise s _
  · exact parseKeeps_raise s _
  · exact parseKeeps_raise s _
  · exact parseKeeps_parsedState s

/-! ### The state a successful `SERIALIZE` leaves -/

theorem serializedState_flen_toNat {s : State} (h : 8 + s.plen.toNat < 65536) :
    (serializedState s).flen.toNat = 8 + s.plen.toNat := by
  simp only [serializedState, State.succeed_flen, State.setCsum_flen, State.setFlen_flen, BitVec.toNat_ofNat]
  omega

/-- `FRAME` below the new length holds the serialized message. -/
theorem serializedState_bytes_frame (s : State) :
    (serializedState s).bytes .frame 0 (8 + s.plen.toNat) = serializeMsg s.message := by
  have hlen : 8 + s.plen.toNat = (serializeMsg s.message).length := by simp; omega
  rw [hlen]
  exact State.bytes_storeBytes s .frame 0 (serializeMsg s.message)

/-- `FRAME` from the new length on is kept. -/
theorem serializedState_bytesKept_frame (s : State) :
    BytesKept .frame (fun k => k < 8 + s.plen.toNat) s (serializedState s) := fun k hk => by
  have hsucc : (serializedState s).byte .frame k
      = (s.storeBytes .frame 0 (serializeMsg s.message)).byte .frame k := rfl
  rw [hsucc, State.byte_storeBytes, if_neg]
  simp only [length_serializeMsg, State.length_message_payload]
  omega

/-- `CSUM` after `SERIALIZE` is the checksum embedded in the segment. -/
theorem serializedState_csum (s : State) : (serializedState s).csum = getHalf (serializeMsg s.message) 2 := by
  simp [serializedState, getHalf, serializeMsg_eq]

/-! ### The register file after `SRST` -/

theorem readReg_clearRegs (P : Params) (r : RegName) (s : State) :
    readReg P r s.clearRegs = readReg P r State.reset := by cases r <;> rfl

/-! ### The capacities that legal parameters give -/

/-- With legal parameters each buffer ends inside its window (R35, R38). -/
theorem cap_lt_of_wf {P : Params} (h : P.wf = true) (b : Buf) : P.cap b < 0x10000 := by
  obtain ⟨⟨_, hc⟩, _⟩ := Params.wf_ineqs h
  cases b <;> simp only [Params.cap, Params.payCap] <;> omega

end Sys2Proof.Machine
end

section
/-! The statements of spec/00_scope.md, settled. -/

namespace Sys2Proof.Machine

/-- Settles O5: the step on an empty list of host actions. -/
theorem blockWaitsForTheHost : Obligations.BlockWaitsForTheHost := fun _ h => step_nil h

/-- Settles O46: the default parameters satisfy R5's constraints, and each function of the running machine is
the parameterised one at them, command by command. -/
theorem machineIsTheDefaultInstance : Obligations.MachineIsTheDefaultInstance :=
  ⟨by decide, fun i s => (execAt_default i s).symm, fun _ => rfl, rfl⟩

/-- Settles O45: the canonical form by the three commands' own lemmas, the corner cases by excluding the branches
that raise an error. -/
theorem legalParametersKeepBuffersInBounds : Obligations.LegalParametersKeepBuffersInBounds := by
  intro P s hP hs
  obtain ⟨⟨hlo, hhi⟩, _⟩ := Params.wf_ineqs hP
  have hpay : P.payCap = P.frameCap - 8 := rfl
  refine ⟨cksumCommand_wf hs, parseCommand_wf hs, serializeCommand_wf (by omega) hs, fun hf => ?_, fun hp => ?_⟩
  · rcases parseCommand_cases P s with ⟨_, _⟩ | ⟨_, _, _⟩ | ⟨_, _, _, _⟩ | ⟨_, _, e⟩
    · omega
    · omega
    · omega
    · rw [e]
      exact ⟨rfl, by rw [parsedState_plen_toNat, hf], by omega⟩
  · rcases serializeCommand_cases P s with ⟨_, _⟩ | ⟨_, e⟩
    · omega
    · rw [e]
      exact ⟨rfl, by rw [serializedState_flen_toNat (by omega)]; omega⟩

/-- Settles O47: each access by what its address designates, which `locate_regAddr_of_wf` and `locate_window` say
for every legal choice of the window bases. -/
theorem everyLegalInstanceMapsItsWindows : Obligations.EveryLegalInstanceMapsItsWindows := by
  intro P s rest hP
  have hbyte (b : Buf) (i : Nat) (hi : i < P.cap b) :
      locate P (byteAddr P b i).toNat 1 = some (.byte b i) := by
    rw [locate_window hP b (hi.trans (cap_lt_of_wf hP b)), if_pos ⟨rfl, hi⟩]
  refine ⟨fun r h => ?_, fun w h => ?_, fun b i hi h => ?_, fun b i v hi h => ?_, fun b i n hi hn h => ?_⟩
    <;> rw [stepAt_cons P h, perform]
  · rw [hostRead_reg _ (locate_regAddr_of_wf hP r), readReg_begin]
    rfl
  · rw [hostWrite_cmd w _ (locate_regAddr_of_wf hP .CMD)]
    rfl
  · rw [hostRead_byte _ (hbyte b i hi), State.byte_begin]
    rfl
  · have hv : (v.setWidth 32).setWidth 8 = v := by simp
    rw [hostWrite_byte _ _ (hbyte b i hi), hv]
    refine ⟨_, rfl, ?_, fun k hk => ?_, fun b' hb k hk => ?_, by simp⟩
    · rw [State.byte_storeByte, if_pos ⟨rfl, rfl⟩]
    · rw [bytesKept_storeByte_same _ b i v k hk, State.byte_begin]
    · rw [bytesKept_storeByte_other _ i v hb k hk, State.byte_begin]
  · have hnone : ¬ (n = 1 ∧ i < P.cap b) := by omega
    exact hostRead_none _ (by rw [locate_window hP b hi, if_neg hnone])

/-- Settles O48: each command's branches are those of its `_cases` lemma; the conditions pick the branch, and the
lemmas about `parsedState` and `serializedState` say what a success leaves. -/
theorem everyLegalInstanceRunsTheContracts : Obligations.EveryLegalInstanceRunsTheContracts := by
  intro P s hP
  obtain ⟨⟨_, hcap⟩, _⟩ := Params.wf_ineqs hP
  have hpay : P.payCap = P.frameCap - 8 := rfl
  refine ⟨fun hf hw => ?_, fun hbad => ?_, fun hf => ?_, fun hf => ?_, fun hp => ?_, fun hp => ?_, rfl, ?_⟩
  · rcases cksumCommand_cases P s with ⟨_, _⟩ | ⟨_, _, e⟩
    · omega
    · exact congrArg Host.Outcome.next e
  · rcases cksumCommand_cases P s with ⟨_, e⟩ | ⟨_, _, _⟩
    · exact congrArg Host.Outcome.next e
    · omega
  · obtain ⟨hres, herr⟩ := parseCommand_result hf
    exact ⟨_, rfl, hres, herr, parseKeeps_parseCommand P s⟩
  · rcases parseCommand_cases P s with ⟨_, e⟩ | ⟨_, _, _⟩ | ⟨_, _, _, _⟩ | ⟨_, _, _⟩
    · exact congrArg Host.Outcome.next e
    · omega
    · omega
    · omega
  · rcases serializeCommand_cases P s with ⟨_, _⟩ | ⟨_, e⟩
    · omega
    · have hlen := serializedState_flen_toNat (s := s) (by omega)
      exact ⟨_, congrArg Host.Outcome.next e, rfl, hlen, by rw [hlen, serializedState_bytes_frame],
        serializedState_csum s, rfl, serializedState_bytesKept_frame s, bytesKept_of_buf rfl rfl,
        rfl, rfl, rfl, rfl, rfl⟩
  · rcases serializeCommand_cases P s with ⟨_, e⟩ | ⟨_, _⟩
    · exact congrArg Host.Outcome.next e
    · omega
  · exact ⟨_, rfl, fun r => readReg_clearRegs P r s, fun b => bytesKept_of_buf (by cases b <;> rfl) rfl,
      rfl, rfl, rfl⟩

end Sys2Proof.Machine
end

/-! ## Proofs: the state (spec/10_state.md) -/

section
/-! SUPPORT. What a host action can do, the canonical form along a step, and the register file as the host reads
and writes it. -/

namespace Sys2Proof.Machine

/-! ### What a host action can do -/

/-- Everything a host action that answers a next state can do. -/
theorem perform_next_cases {P : Params} {act : HostAction} {s t : State} (h : perform P act s = .next t) :
    (act = .reset ∧ t = s.hardwareReset)
    ∨ (∃ y, t = s.setReply y)
    ∨ (∃ r w, t = writeReg r w s)
    ∨ (∃ b i v, i < P.cap b ∧ t = s.storeByte b i v)
    ∨ ∃ a n w, act = .write a n w ∧ locate P a.toNat n = some (.reg .CMD) ∧ runCommand P w s = .next t := by
  cases act with
  | reset =>
    cases h
    exact .inl ⟨rfl, rfl⟩
  | read a n =>
    rw [perform] at h
    rcases hl : locate P a.toNat n with _ | (r | ⟨b, i⟩)
    · rw [hostRead_none s hl] at h
      cases h
    · rw [hostRead_reg s hl] at h
      cases h
      exact .inr (.inl ⟨_, rfl⟩)
    · rw [hostRead_byte s hl] at h
      cases h
      exact .inr (.inl ⟨_, rfl⟩)
  | write a n w =>
    rw [perform] at h
    rcases hl : locate P a.toNat n with _ | (r | ⟨b, i⟩)
    · rw [hostWrite_none w s hl] at h
      cases h
    · by_cases hr : r = .CMD
      · subst hr
        rw [hostWrite_cmd w s hl] at h
        exact .inr (.inr (.inr (.inr ⟨a, n, w, rfl, hl, h⟩)))
      · rw [hostWrite_reg w s hl hr] at h
        cases h
        exact .inr (.inr (.inl ⟨r, w, rfl⟩))
    · rw [hostWrite_byte w s hl] at h
      cases h
      exact .inr (.inr (.inr (.inl ⟨b, i, _, locate_byte_lt hl, rfl⟩)))

/-- Only an access of 4 bytes at address 0 designates `CMD`. -/
theorem eq_zero_of_locate_cmd {a : Addr} {n : Nat} (h : locate Config.params a.toNat n = some (.reg .CMD)) :
    a = 0x00000 ∧ n = 4 := by
  rcases locate_some h with ⟨r, hr, hn, ha⟩ | ⟨_, hb, _⟩ | ⟨_, hb, _⟩
  · cases hr
    exact ⟨BitVec.eq_of_toNat_eq ha, hn⟩
  · cases hb
  · cases hb

/-- The host goes on in the step's next state, or, after a refusal, with the block unchanged. -/
theorem hostStep_cases (s : State) :
    step s = .next (hostStep s) ∨ hostStep s = s.begin s.pending.tail .busError := by
  unfold hostStep
  rcases step s with t | f | r
  · exact .inl rfl
  · nomatch f
  · exact .inr rfl

/-- A word that decodes to a command runs that command. -/
theorem runCommand_of_decode {w : Word} {i : Instr} (h : decode w = .command i) (P : Params) (s : State) :
    runCommand P w s = execAt P i s := by
  rcases runCommandAt_cases P w s with ⟨j, hj, e⟩ | ⟨⟨why, hw⟩, _⟩
  · cases hj.symm.trans h
    exact e
  · cases hw.symm.trans h

theorem decode_of_decodeTableWord {nbits w : Nat} {i : Instr} (h : decodeTableWord nbits w = some i) :
    decode (tableWord nbits w) = .command i := by
  unfold decodeTableWord at h
  split at h
  · cases h
    assumption
  · cases h

/-! ### The canonical form along a step -/

theorem execAt_wf {P : Params} {i : Instr} {s t : State} (hP : 8 ≤ P.frameCap) (hs : s.wf P = true)
    (h : execAt P i s = .next t) : t.wf P = true := by
  cases i <;> cases h
  case nop => exact hs
  case cksum => exact cksumCommand_wf hs
  case parse => exact parseCommand_wf hs
  case serialize => exact serializeCommand_wf hP hs
  case srst => exact hs

theorem runCommand_wf {P : Params} {w : Word} {s t : State} (hP : 8 ≤ P.frameCap) (hs : s.wf P = true)
    (h : runCommand P w s = .next t) : t.wf P = true := by
  rcases runCommandAt_cases P w s with ⟨_, _, e⟩ | ⟨_, e⟩ <;> rw [e] at h
  · exact execAt_wf hP hs h
  · cases h
    exact hs

theorem writeReg_wf (P : Params) (r : RegName) (w : Word) (s : State) : (writeReg r w s).wf P = s.wf P := by
  obtain ⟨hf, hp, _⟩ := writeReg_buffers r w s
  exact State.wf_congr hf hp

theorem storeByte_wf {P : Params} {s : State} {b : Buf} {i : Nat} (v : Byte) (hs : s.wf P = true)
    (hi : i < P.cap b) : (s.storeByte b i v).wf P = true := by
  obtain ⟨hf, hp⟩ := (State.wf_iff P s).1 hs
  refine (State.wf_iff P _).2 ?_
  cases b with
  | frame => exact ⟨Memory.wf_store v hf hi, hp⟩
  | payload => exact ⟨hf, Memory.wf_store v hp hi⟩

/-- Every host action that answers a next state keeps the canonical form. -/
theorem perform_wf {P : Params} {act : HostAction} {s t : State} (hP : 8 ≤ P.frameCap) (hs : s.wf P = true)
    (h : perform P act s = .next t) : t.wf P = true := by
  rcases perform_next_cases h with ⟨_, rfl⟩ | ⟨_, rfl⟩ | ⟨r, w, rfl⟩ | ⟨b, i, v, hi, rfl⟩ | ⟨_, _, _, _, _, hc⟩
  · rfl
  · exact hs
  · rwa [writeReg_wf]
  · exact storeByte_wf v hs hi
  · exact runCommand_wf hP hs hc

theorem stepAt_wf {P : Params} {s t : State} (hP : 8 ≤ P.frameCap) (hs : s.wf P = true)
    (h : stepAt P s = .next t) : t.wf P = true := by
  rcases stepAt_cases P s with ⟨_, e⟩ | ⟨_, rest, _, e⟩ <;> rw [e] at h
  · cases h
    exact hs
  · exact perform_wf (s := s.begin rest .completed) hP hs h

/-! ### The register file under the host's accesses -/

theorem toNat_setWidth_lt {n : Nat} (x : BitVec n) (m : Nat) : (x.setWidth m).toNat < 2 ^ n := by
  rw [BitVec.toNat_setWidth]
  exact (Nat.mod_le _ _).trans_lt x.isLt

/-- Cutting a word to a register's width and extending it again is the remainder by the power of two. -/
theorem setWidth_setWidth_eq_ofNat (w : Word) (n : Nat) :
    (w.setWidth n).setWidth 32 = BitVec.ofNat 32 (w.toNat % 2 ^ n) := by
  apply BitVec.eq_of_toNat_eq
  rw [BitVec.toNat_setWidth, BitVec.toNat_setWidth, BitVec.toNat_ofNat]

/-- A register reads below the power of two of its width (R16). -/
theorem readReg_lt (P : Params) (r : RegName) (s : State) : (readReg P r s).toNat < 2 ^ regWidth r := by
  cases r
  case CMD => exact Nat.two_pow_pos 32
  case SRC => exact s.src.isLt
  case DST => exact s.dst.isLt
  case CAPS => exact (capsWord P).isLt
  case ID => exact P.blockId.isLt
  all_goals exact toNat_setWidth_lt _ _

/-- An `RW` register reads the word written, cut to its width (R16). -/
theorem readReg_writeReg_same {r : RegName} (h : regAccess r = .readWrite) (P : Params) (w : Word) (s : State) :
    readReg P r (writeReg r w s) = BitVec.ofNat 32 (w.toNat % 2 ^ regWidth r) := by
  rw [← setWidth_setWidth_eq_ofNat]
  cases r <;> cases h
  case SRC | DST => exact (BitVec.setWidth_eq w).symm
  all_goals rfl

/-- A write to a register changes no other register, but `TCLASS` follows `TYPE` (R32). -/
theorem readReg_writeReg_other {r r' : RegName} (hr : r' ≠ r) (ht : r = .TYPE → r' ≠ .TCLASS) (P : Params)
    (w : Word) (s : State) : readReg P r' (writeReg r w s) = readReg P r' s := by
  cases r <;> cases r' <;> simp [readReg, writeReg] at hr ht ⊢

/-- A write to an `RO` register is ignored (R16). -/
theorem writeReg_readOnly {r : RegName} (h : regAccess r = .readOnly) (w : Word) (s : State) :
    writeReg r w s = s := by
  cases r <;> simp [regAccess] at h <;> rfl

@[simp] theorem State.byte_writeReg (r : RegName) (w : Word) (s : State) (b : Buf) (i : Nat) :
    (writeReg r w s).byte b i = s.byte b i := by
  obtain ⟨hf, hp, hr, _⟩ := writeReg_buffers r w s
  exact State.byte_congr (by cases b <;> assumption) hr i

@[simp] theorem writeReg_status (r : RegName) (w : Word) (s : State) : (writeReg r w s).status = s.status := by
  cases r <;> rfl

@[simp] theorem readReg_storeBytes (P : Params) (r : RegName) (s : State) (b : Buf) (i : Nat) (bs : List Byte) :
    readReg P r (s.storeBytes b i bs) = readReg P r s := by cases b <;> cases r <;> rfl

theorem readReg_hardwareReset (P : Params) (r : RegName) (s : State) :
    readReg P r s.hardwareReset = readReg P r State.reset := by cases r <;> rfl

/-- After a hardware reset every byte is the free value of that reset (R37). -/
theorem State.byte_hardwareReset (s : State) (b : Buf) (i : Nat) :
    s.hardwareReset.byte b i = Config.resetByte (s.resets + 1) b i := by cases b <;> rfl

/-! ### The constants -/

/-- The three type numbers of legal parameters are pairwise distinct (R5). -/
theorem Params.types_distinct {P : Params} (h : P.wf = true) :
    P.typeEchoReply ≠ P.typeEchoRequest ∧ P.typeEchoReply ≠ P.typeTtlExpired
      ∧ P.typeEchoRequest ≠ P.typeTtlExpired := by
  simp only [Params.wf, Params.typesWf, Bool.and_eq_true, decide_eq_true_eq] at h
  obtain ⟨⟨_, ⟨h₁, h₂⟩, h₃⟩, _⟩ := h
  exact ⟨h₁, h₂, h₃⟩

theorem capsWord_lo (P : Params) : (capsWord P).extractLsb 15 0 = BitVec.ofNat 16 P.frameCap :=
  BitVec.extractLsb'_append_eq_right

theorem capsWord_hi (P : Params) : (capsWord P).extractLsb 31 16 = BitVec.ofNat 16 P.payCap :=
  BitVec.extractLsb'_append_eq_left

end Sys2Proof.Machine
end

section
/-! SUPPORT. Two states with the same registers that agree below the lengths, and what each command makes of
them (R35). -/

namespace Sys2Proof.Machine

/-- The registers of `s`, with the buffers and the model's own fields of `u`. -/
def State.withBuffersOf (s u : State) : State :=
  { s with frame := u.frame, payload := u.payload, resets := u.resets, pending := u.pending, reply := u.reply }

@[simp] theorem readReg_withBuffersOf (P : Params) (r : RegName) (s u : State) :
    readReg P r (s.withBuffersOf u) = readReg P r s := by cases r <;> rfl

theorem CmdError.statusBits_injective {e e' : CmdError}
    (h : e.statusBits.setWidth 32 = e'.statusBits.setWidth 32) : e = e' := by
  revert h
  cases e <;> cases e' <;> decide

/-- The register file determines every storage register. -/
theorem eq_withBuffersOf_of_readReg_eq {P : Params} {s s' : State} (h : ∀ r, readReg P r s = readReg P r s') :
    s' = s.withBuffersOf s' := by
  have hcut {n : Nat} (hn : n ≤ 32) {x y : BitVec n} (e : x.setWidth 32 = y.setWidth 32) : y = x := by
    have := congrArg (BitVec.setWidth n) e
    simpa [BitVec.setWidth_setWidth_of_le _ hn] using this.symm
  obtain ⟨⟩ := s'
  simp only [State.withBuffersOf, State.mk.injEq, and_true]
  refine ⟨(CmdError.statusBits_injective (h .STATUS)).symm, hcut ?_ (h .FLEN), hcut ?_ (h .PLEN),
    hcut ?_ (h .CK_OFF), hcut ?_ (h .CK_LEN), hcut ?_ (h .CSUM), hcut ?_ (h .TYPE), hcut ?_ (h .CODE),
    hcut ?_ (h .CHECKSUM), hcut ?_ (h .IDENT), hcut ?_ (h .SEQ), hcut ?_ (h .TTL), (h .SRC).symm,
    (h .DST).symm⟩ <;> decide

/-- Equal registers, and equal buffer bytes below `FLEN` and `PLEN`: all that a command may read (R35). -/
def AgreeBelowLengths (s t : State) : Prop :=
  (∀ r, readReg Config.params r s = readReg Config.params r t)
    ∧ (∀ k, k < s.flen.toNat → s.byte .frame k = t.byte .frame k)
    ∧ ∀ k, k < s.plen.toNat → s.byte .payload k = t.byte .payload k

@[simp] theorem State.byte_succeed (s : State) (b : Buf) (i : Nat) : s.succeed.byte b i = s.byte b i :=
  State.byte_congr (by cases b <;> rfl) rfl i

/-- A byte just written, below the end of the sequence. -/
theorem State.byte_storeBytes_below (s : State) (b : Buf) {k : Nat} {bs : List Byte} (h : k < bs.length) :
    (s.storeBytes b 0 bs).byte b k = bs.getD k 0 := by
  rw [State.byte_storeBytes, if_pos ⟨rfl, Nat.zero_le k, by omega⟩, Nat.sub_zero]

/-- `FRAME` after `SERIALIZE`, byte by byte below the new length. -/
theorem serializedState_byte_frame (s : State) {k : Nat} (hk : k < 8 + s.plen.toNat) :
    (serializedState s).byte .frame k = (serializeMsg s.message).getD k 0 := by
  rw [← serializedState_bytes_frame, State.getD_bytes _ _ _ _ _ hk, Nat.zero_add]

theorem lt_of_lt_toNat_ofNat {k n : Nat} (h : k < (BitVec.ofNat 16 n).toNat) : k < n := by
  rw [BitVec.toNat_ofNat] at h
  exact h.trans_le (Nat.mod_le _ _)

/-- A parsed message has as payload what follows the 28 bytes of the headers. -/
theorem length_payload_of_parseDgram {d : List Byte} {m : IcmpMessage} (h : parseDgram d = .message m) :
    m.payload.length = d.length - 28 := by
  unfold parseDgram at h
  split at h
  · cases h
  · split at h
    · cases h
    · cases h
      simp only [messageOf, List.length_drop]
      omega

/-- `SRST` leaves both lengths 0, so no byte is left to compare. -/
theorem agree_clearRegs (s u : State) : AgreeBelowLengths s.clearRegs (s.withBuffersOf u).clearRegs :=
  ⟨fun r => (readReg_withBuffersOf _ r s.clearRegs u).symm, fun _ hk => absurd hk (Nat.not_lt_zero _),
    fun _ hk => absurd hk (Nat.not_lt_zero _)⟩

section
variable {s u : State} (h : AgreeBelowLengths s (s.withBuffersOf u)) (P : Params)
include h

theorem agree_raise (e : CmdError) : AgreeBelowLengths (s.raise e) ((s.withBuffersOf u).raise e) := by
  obtain ⟨_, hf, hp⟩ := h
  exact ⟨fun r => (readReg_withBuffersOf _ r (s.raise e) u).symm, hf, hp⟩

/-- The window of `CKSUM` lies below `FLEN`. -/
theorem agree_cksumCommand : AgreeBelowLengths (cksumCommand P s) (cksumCommand P (s.withBuffersOf u)) := by
  have ⟨_, hf, hp⟩ := h
  have hflen : (s.withBuffersOf u).flen.toNat = s.flen.toNat := rfl
  have hoff : (s.withBuffersOf u).ckOff.toNat = s.ckOff.toNat := rfl
  have hcnt : (s.withBuffersOf u).ckLen.toNat = s.ckLen.toNat := rfl
  rcases cksumCommand_cases P s with ⟨hbad, e⟩ | ⟨hcap, hwin, e⟩
    <;> rcases cksumCommand_cases P (s.withBuffersOf u) with ⟨hbad', e'⟩ | ⟨hcap', hwin', e'⟩
  · rw [e, e']
    exact agree_raise h _
  · omega
  · omega
  · have hw : (s.withBuffersOf u).window = s.window := by
      rw [State.window, hoff, hcnt]
      exact State.bytes_congr fun k hk => (hf _ (by omega)).symm
    rw [e, e', hw]
    exact ⟨fun r => (readReg_withBuffersOf _ r (s.setCsum _).succeed u).symm, hf, hp⟩

/-- `PARSE` reads the frame below `FLEN`, and writes `PAYLOAD` below the `PLEN` it leaves. -/
theorem agree_parseCommand : AgreeBelowLengths (parseCommand P s) (parseCommand P (s.withBuffersOf u)) := by
  have ⟨_, hf, hp⟩ := h
  have hflen : (s.withBuffersOf u).flen.toNat = s.flen.toNat := rfl
  have hframe : (s.withBuffersOf u).bytes .frame 0 (s.withBuffersOf u).flen.toNat
      = s.bytes .frame 0 s.flen.toNat := by
    rw [hflen]
    exact State.bytes_congr fun k hk => (hf _ (by omega)).symm
  unfold parseCommand
  rw [hframe]
  by_cases hcap : P.frameCap < s.flen.toNat
  · have hcap' : P.frameCap < (s.withBuffersOf u).flen.toNat := hcap
    rw [if_pos hcap, if_pos hcap']
    exact agree_raise h _
  · have hcap' : ¬ P.frameCap < (s.withBuffersOf u).flen.toNat := hcap
    rw [if_neg hcap, if_neg hcap']
    rcases hd : parseDgram (s.bytes .frame 0 s.flen.toNat) with e | m
    · exact agree_raise h e
    · have hlen := length_payload_of_parseDgram hd
      rw [State.length_bytes] at hlen
      refine ⟨fun r => (readReg_withBuffersOf _ r _ _).symm, hf, fun k hk => ?_⟩
      have hk' : k < m.payload.length := by
        rw [hlen]
        exact lt_of_lt_toNat_ofNat hk
      rw [State.byte_succeed, State.byte_succeed, State.byte_storeBytes_below _ _ hk',
        State.byte_storeBytes_below _ _ hk']

/-- `SERIALIZE` reads `PAYLOAD` below `PLEN`, and writes `FRAME` below the `FLEN` it leaves. -/
theorem agree_serializeCommand :
    AgreeBelowLengths (serializeCommand P s) (serializeCommand P (s.withBuffersOf u)) := by
  have ⟨_, hf, hp⟩ := h
  have hplen : (s.withBuffersOf u).plen.toNat = s.plen.toNat := rfl
  have hmsg : (s.withBuffersOf u).message = s.message := by
    have hpay : (s.withBuffersOf u).bytes .payload 0 s.plen.toNat = s.bytes .payload 0 s.plen.toNat :=
      State.bytes_congr fun k hk => (hp _ (by omega)).symm
    rw [State.message, hplen, hpay]
    rfl
  rcases serializeCommand_cases P s with ⟨hcap, e⟩ | ⟨hcap, e⟩
    <;> rcases serializeCommand_cases P (s.withBuffersOf u) with ⟨hcap', e'⟩ | ⟨hcap', e'⟩
  · rw [e, e']
    exact agree_raise h _
  · omega
  · omega
  · rw [e, e']
    refine ⟨fun r => ?_, fun k hk => ?_, hp⟩
    · rw [serializedState, serializedState, hmsg]
      exact (readReg_withBuffersOf _ r _ _).symm
    · have hk' : k < 8 + s.plen.toNat := lt_of_lt_toNat_ofNat hk
      rw [serializedState_byte_frame s hk', serializedState_byte_frame (s.withBuffersOf u) hk', hmsg]

end

end Sys2Proof.Machine
end

section
/-! SUPPORT. The accesses of the pseudo-statements of R64. -/

namespace Sys2Proof.Machine

theorem decode_encode (i : Instr) : decode (encode i) = .command i := by cases i <;> decide

/-- `cmd M`. -/
theorem step_cmd {s : State} {i : Instr} {rest : List HostAction}
    (h : s.pending = cmdAction Config.params i :: rest) : step s = exec i (s.begin rest .completed) := by
  rw [step_cons h]
  refine (hostWrite_cmd _ _ (locate_regAddr .CMD)).trans ?_
  rw [runCommand_of_decode (decode_encode i), execAt_default]

/-- What the write of a byte sequence to a buffer leaves in both buffers, when `t` has its bytes. -/
theorem bytes_of_storeBytes {s t : State} {b : Buf} {k : Nat} {bs : List Byte}
    (h : ∀ b' i, t.byte b' i = (s.storeBytes b k bs).byte b' i) :
    t.bytes b k bs.length = bs ∧ BytesKept b (fun i => k ≤ i ∧ i < k + bs.length) s t
      ∧ ∀ b', b' ≠ b → BytesKept b' (fun _ => False) s t := by
  refine ⟨?_, fun i hi => ?_, fun b' hb i _ => ?_⟩
  · rw [State.bytes_congr fun i _ => h b (k + i), State.bytes_storeBytes]
  · rw [h, State.byte_storeBytes, if_neg fun hr => hi hr.2]
  · rw [h, State.byte_storeBytes, if_neg fun hr => hb hr.1.symm]

/-- The state that `ldf` and `ldp` leave: the bytes from index 0, and their number in the length register `r`. -/
def loadedState (s : State) (b : Buf) (r : RegName) (bs : List Byte) : State :=
  writeReg r (BitVec.ofNat 32 bs.length) ((s.storeBytes b 0 bs).begin [] .completed)

/-- `ldf` and `ldp` in one: a `fill` from index 0 and the write of its length to the register `r`. -/
theorem runSteps_load {s : State} {b : Buf} {r : RegName} {bs : List Byte} (hr : r ≠ .CMD)
    (hlen : bs.length ≤ Config.params.cap b)
    (hp : s.pending = fillActions Config.params b 0 bs ++ [wrAction Config.params r (BitVec.ofNat 32 bs.length)]) :
    runSteps (bs.length + 1) s = .next (loadedState s b r bs) := by
  obtain ⟨y, hrun⟩ := runSteps_fill b 0 bs [_] s 1 (by omega) hp
  exact hrun.trans (runSteps_of_step 0 (step_wr hr rfl))

theorem loadedState_bytes (s : State) (b : Buf) (r : RegName) (bs : List Byte) :
    (loadedState s b r bs).bytes b 0 bs.length = bs ∧ BytesKept b (fun i => i < bs.length) s (loadedState s b r bs)
      ∧ ∀ b', b' ≠ b → BytesKept b' (fun _ => False) s (loadedState s b r bs) := by
  obtain ⟨hbytes, hkept, hother⟩ := bytes_of_storeBytes (t := loadedState s b r bs) fun b' i => by
    rw [loadedState, State.byte_writeReg, State.byte_begin]
  exact ⟨hbytes, fun i hi => hkept i (by omega), hother⟩

theorem loadedState_regsKept {r : RegName} (ht : r ≠ .TYPE) (s : State) (b : Buf) (bs : List Byte) :
    RegsKept [r] s (loadedState s b r bs) := fun r' hr' => by
  rw [loadedState, readReg_writeReg_other (by simpa using hr') (fun e => absurd e ht), readReg_begin,
    readReg_storeBytes]

theorem loadedState_pending (s : State) (b : Buf) (r : RegName) (bs : List Byte) :
    (loadedState s b r bs).pending = [] := by
  obtain ⟨_, _, _, hpend, _⟩ := writeReg_buffers r (BitVec.ofNat 32 bs.length)
    ((s.storeBytes b 0 bs).begin [] .completed)
  exact hpend

/-- A length register takes the number of bytes of a buffer. -/
theorem toNat_setWidth_length {n : Nat} (h : n ≤ 2000) : ((BitVec.ofNat 32 n).setWidth 16).toNat = n := by
  rw [BitVec.toNat_setWidth, BitVec.toNat_ofNat, Nat.mod_eq_of_lt (by omega), Nat.mod_eq_of_lt (by omega)]

theorem runSteps_one (s : State) : runSteps 1 s = step s := by
  unfold runSteps
  cases step s <;> rfl

/-- `wr NAME, v` as the first of `m + 1` steps. -/
theorem runSteps_wr {s : State} {v : Word} {rest : List HostAction} (m : Nat) (r : RegName) (hr : r ≠ .CMD)
    (h : s.pending = wrAction Config.params r v :: rest) :
    runSteps (m + 1) s = runSteps m (writeReg r v (s.begin rest .completed)) :=
  runSteps_of_step m (step_wr hr h)

theorem setWidth_16_eq_ofNat (w : Word) : w.setWidth 16 = BitVec.ofNat 16 (w.toNat % 65536) := by
  apply BitVec.eq_of_toNat_eq
  simp

end Sys2Proof.Machine
end

section
/-! The statements of spec/10_state.md, settled. -/

namespace Sys2Proof.Machine

/-- Settles O43: by what a host action can do (`perform_next_cases`), each case keeping the canonical form; a
refused access leaves both buffers as they are. -/
theorem everyStepKeepsTheBuffersCanonical : Obligations.EveryStepKeepsTheBuffersCanonical := by
  have hstep (s t : State) (hs : s.wf Config.params = true) (h : step s = .next t) :
      t.wf Config.params = true := stepAt_wf (by decide) hs h
  refine ⟨hstep, fun P s t hP hs h => ?_, fun s hs => ?_⟩
  · obtain ⟨⟨hcap, _⟩, _⟩ := Params.wf_ineqs hP
    exact stepAt_wf (by omega) hs h
  · rcases hostStep_cases s with h | e
    · exact hstep s _ hs h
    · rw [e]
      exact hs

/-- Settles O10: the three accesses by the address of the register, then the laws of `readReg` over `writeReg`. -/
theorem registerAccessTruncatesAndExtends : Obligations.RegisterAccessTruncatesAndExtends := by
  intro s r w rest
  refine ⟨fun hrw h => ?_, fun hro h => ?_, fun h => ⟨?_, readReg_lt _ r s, fun hr => by rw [hr]; rfl⟩⟩
  · have hne : r ≠ .CMD := by
      rintro rfl
      cases hrw
    obtain ⟨_, _, hres, hpend, _⟩ := writeReg_buffers r w (s.begin rest .completed)
    refine ⟨_, step_wr hne h, readReg_writeReg_same hrw _ w _, fun r' hr' ht => ?_, fun b i _ => ?_, hres, hpend⟩
    · rw [readReg_writeReg_other hr' ht, readReg_begin]
    · rw [State.byte_writeReg, State.byte_begin]
  · have hne : r ≠ .CMD := by
      rintro rfl
      cases hro
    rw [step_wr hne h, writeReg_readOnly hro]
    rfl
  · rw [step_cons h, perform, hostRead_reg _ (locate_regAddr r), readReg_begin]
    rfl

/-- Settles O12: the two halves of `capsWord`, and the capacities fit 16 bits. -/
theorem capsAndIdAreConstants : Obligations.CapsAndIdAreConstants := by
  refine ⟨fun P s hP => ⟨?_, ?_, rfl⟩, fun _ => ⟨rfl, rfl⟩⟩
  · rw [readReg, capsWord_lo, BitVec.toNat_ofNat]
    exact Nat.mod_eq_of_lt (cap_lt_of_wf hP .frame)
  · rw [readReg, capsWord_hi, BitVec.toNat_ofNat]
    exact Nat.mod_eq_of_lt (cap_lt_of_wf hP .payload)

/-- Settles O21: of the cases of `perform_next_cases` only a command and a hardware reset touch `STATUS`, and
only address 0, in an access of 4 bytes, designates `CMD`. -/
theorem onlyCommandWritesChangeStatus : Obligations.OnlyCommandWritesChangeStatus := by
  intro s hne
  rcases hostStep_cases s with h | e
  · rcases step_cases s with ⟨_, e⟩ | ⟨act, rest, hp, e⟩ <;> rw [e] at h
    · exact absurd (congrArg State.status (Host.Outcome.next.inj h)).symm hne
    · refine ⟨rest, ?_⟩
      rcases perform_next_cases h with ⟨rfl, _⟩ | ⟨_, ht⟩ | ⟨_, _, ht⟩ | ⟨_, _, _, _, ht⟩ | ⟨a, n, w, rfl, hl, _⟩
      · exact .inl hp
      · exact absurd (by rw [ht]; rfl) hne
      · exact absurd (by rw [ht, writeReg_status]; rfl) hne
      · exact absurd (by rw [ht, State.storeByte_status]; rfl) hne
      · obtain ⟨rfl, rfl⟩ := eq_zero_of_locate_cmd hl
        exact .inr ⟨w, hp⟩
  · exact absurd (by rw [e]; rfl) hne

/-- Settles O42: the second state is the first with other buffers, and each command keeps the agreement below the
lengths. -/
theorem commandsNeverReadBeyondTheLengths : Obligations.CommandsNeverReadBeyondTheLengths := by
  intro i s s' t t' hregs hframe hpay ht ht'
  obtain ⟨u, rfl⟩ : ∃ u, s' = s.withBuffersOf u := ⟨s', eq_withBuffersOf_of_readReg_eq hregs⟩
  have h : AgreeBelowLengths s (s.withBuffersOf u) := ⟨hregs, hframe, hpay⟩
  cases i <;> cases ht <;> cases ht'
  case nop => exact agree_raise h .none
  case cksum => exact agree_cksumCommand h _
  case parse => exact agree_parseCommand h _
  case serialize => exact agree_serializeCommand h _
  case srst => exact agree_clearRegs s u

/-- Settles O49: a `fill` is the write of its byte sequence (`runSteps_fill`), `ldf` and `ldp` add the write of the
length (`runSteps_load`), and `cksum` is two register writes before the command. -/
theorem pseudoStatementsExpandAsTabled : Obligations.PseudoStatementsExpandAsTabled := by
  refine ⟨fun s b k bs hk hp => ?_, fun s bs hl hp => ?_, fun s bs hl hp => ?_, fun s k n hp => ?_⟩
  · obtain ⟨y, hrun⟩ := runSteps_fill b k bs [] s 0 hk hp
    obtain ⟨hbytes, hkept, hother⟩ := bytes_of_storeBytes (s := s) (b := b) (k := k) (bs := bs)
      (t := (s.storeBytes b k bs).begin [] y) fun b' i => by rw [State.byte_begin]
    exact ⟨_, hrun, rfl, hbytes, hkept, hother, fun r _ => by rw [readReg_begin, readReg_storeBytes]⟩
  · obtain ⟨hbytes, hkept, hother⟩ := loadedState_bytes s .frame .FLEN bs
    have hrun := runSteps_load (b := .frame) (r := .FLEN) (by decide) hl (hp.trans (List.append_nil _))
    exact ⟨_, hrun, loadedState_pending _ _ _ _, hbytes, toNat_setWidth_length (by omega), hkept,
      hother .payload (by decide), loadedState_regsKept (by decide) _ _ _⟩
  · obtain ⟨hbytes, hkept, hother⟩ := loadedState_bytes s .payload .PLEN bs
    have hrun := runSteps_load (b := .payload) (r := .PLEN) (by decide) hl (hp.trans (List.append_nil _))
    exact ⟨_, hrun, loadedState_pending _ _ _ _, hbytes, toNat_setWidth_length (by omega), hkept,
      hother .frame (by decide), loadedState_regsKept (by decide) _ _ _⟩
  · refine (runSteps_wr 2 .CK_OFF (by decide) hp).trans ?_
    refine (runSteps_wr 1 .CK_LEN (by decide) rfl).trans ?_
    rw [runSteps_one, step_cmd rfl, ← setWidth_16_eq_ofNat, ← setWidth_16_eq_ofNat]
    rfl

/-- Settles O4: the address 0 designates `CMD`, and a word that decodes runs its command. -/
theorem stepRunsTheDecodedCommand : Obligations.StepRunsTheDecodedCommand := by
  have hrun (s : State) (w : Word) (rest : List HostAction) (i : Instr)
      (h : s.pending = .write 0x00000 4 w :: rest) (hd : decode w = .command i) :
      step s = exec i (s.begin rest .completed) := by
    rw [step_command h, runCommand_of_decode hd, execAt_default]
  refine ⟨fun s w rest i h hd _ => hrun s w rest i h hd, fun s nbits w i hd => ?_⟩
  exact hrun (s.withFetchWord nbits w) _ s.pending i rfl (decode_of_decodeTableWord hd)

/-- Settles O7: the registers of the reset state, one by one. -/
theorem resetStateRegisters : Obligations.ResetStateRegisters := by
  exact ⟨by decide, rfl, rfl, rfl⟩

/-- Settles O8: the step is `State.hardwareReset`, whose registers and bytes have their laws. -/
theorem hardwareResetFromAnyState : Obligations.HardwareResetFromAnyState := by
  intro s rest h
  exact ⟨_, step_cons h, fun r => readReg_hardwareReset _ r _, State.byte_hardwareReset _, rfl⟩

/-- Settles O11: `tclassOf` tests the three types in turn, and legal parameters keep them apart. -/
theorem tclassIsTheClassOfType : Obligations.TclassIsTheClassOfType := by
  refine ⟨fun P s hP => ?_, by decide, rfl, rfl, rfl⟩
  obtain ⟨hpq, hpe, hqe⟩ := Params.types_distinct hP
  refine ⟨fun h => ?_, fun h => ?_, fun h => ?_, fun hq hp he => ?_⟩
  · simp [readReg, tclassOf, h]
  · simp [readReg, tclassOf, h, hpq]
  · simp [readReg, tclassOf, h, hpe.symm, hqe.symm]
  · simp [readReg, tclassOf, hq, hp, he]

/-- Settles O44: no byte of the reset state's buffers is written. -/
theorem resetBuffersAreCanonical : Obligations.ResetBuffersAreCanonical := rfl

end Sys2Proof.Machine
end

/-! ## Proofs: the host's accesses (spec/20_memory.md) -/

section
/-! SUPPORT. Which accesses the address map accepts and what each host access leaves (spec/20_memory.md R39 to
R43). -/

namespace Sys2Proof.Machine

/-! ### The addresses that are mapped -/

/-- The registers lie at the word offsets of R15, with the gap at `0x1C`. -/
theorem exists_regOffset {k : Nat} (h : k < 19) (hgap : k ≠ 7) : ∃ r ∈ allRegs, regOffset r = 4 * k := by
  revert k
  decide

theorem regOffset_mapped (r : RegName) :
    regOffset r % 4 = 0 ∧ (regOffset r ≤ 0x18 ∨ (0x20 ≤ regOffset r ∧ regOffset r ≤ 0x48)) := by
  cases r <;> decide

theorem locate_regOffset (r : RegName) : locate Config.params (regOffset r) 4 = some (.reg r) := by
  cases r <;> decide

/-- An access is mapped exactly when its address and size designate something. -/
theorem mapped_iff_locate (a : Addr) (n : Nat) :
    Mapped a n ↔ ∃ l, locate Config.params a.toNat n = some l := by
  constructor
  · rintro (⟨rfl, hdiv, hrange⟩ | ⟨rfl, hlo, hhi⟩ | ⟨rfl, hlo, hhi⟩)
    · obtain ⟨r, _, hr⟩ := exists_regOffset (k := a.toNat / 4) (by omega) (by omega)
      have ha : a.toNat = regOffset r := by omega
      exact ⟨_, ha ▸ locate_regOffset r⟩
    · exact ⟨_, locate_frame (i := a.toNat - 0x10000) (by omega) (by omega)⟩
    · exact ⟨_, locate_payload (i := a.toNat - 0x20000) (by omega) (by omega)⟩
  · rintro ⟨l, hl⟩
    rcases locate_some hl with ⟨r, _, hn, ha⟩ | ⟨i, _, hn, ha, hi⟩ | ⟨i, _, hn, ha, hi⟩
    · exact .inl ⟨hn, ha ▸ regOffset_mapped r⟩
    · exact .inr (.inl ⟨hn, by omega, by omega⟩)
    · exact .inr (.inr ⟨hn, by omega, by omega⟩)

theorem locate_none_of_not_mapped {a : Addr} {n : Nat} (h : ¬ Mapped a n) :
    locate Config.params a.toNat n = none := by
  rw [mapped_iff_locate] at h
  exact Option.eq_none_iff_forall_ne_some.2 fun l hl => h ⟨l, hl⟩

/-! ### What a host access leaves -/

/-- A state that differs in the host's list and the reply only is the same block. -/
theorem sameBlock_begin (s : State) (rest : List HostAction) (y : Reply) : SameBlock s (s.begin rest y) := rfl

theorem sameBlock_setReply_begin (s : State) (rest : List HostAction) (y y' : Reply) :
    SameBlock s ((s.begin rest y).setReply y') := rfl

/-- A read that answers a next state has changed the reply alone. -/
theorem hostRead_next {P : Params} {a : Addr} {n : Nat} {s t : State} (h : hostRead P a n s = .next t) :
    ∃ y, t = s.setReply y := by
  rcases hl : locate P a.toNat n with _ | (r | ⟨b, i⟩)
  · rw [hostRead_none s hl] at h
    cases h
  · rw [hostRead_reg s hl] at h
    cases h
    exact ⟨_, rfl⟩
  · rw [hostRead_byte s hl] at h
    cases h
    exact ⟨_, rfl⟩

/-- A mapped read answers a next state. -/
theorem hostRead_completes {P : Params} {a : Addr} {n : Nat} {l : Location} (s : State)
    (h : locate P a.toNat n = some l) : ∃ y, hostRead P a n s = .next (s.setReply y) := by
  rcases l with r | ⟨b, i⟩
  · exact ⟨_, hostRead_reg s h⟩
  · exact ⟨_, hostRead_byte s h⟩

/-- Every command answers a next state. -/
theorem exec_completes (i : Instr) (s : State) : ∃ t, exec i s = .next t := by
  cases i <;> exact ⟨_, rfl⟩

theorem runCommand_completes (w : Word) (s : State) :
    ∃ t, runCommand Config.params w s = .next t ∧ t.pending = s.pending := by
  rcases runCommand_cases w s with ⟨i, _, e⟩ | ⟨_, e⟩
  · obtain ⟨t, ht⟩ := exec_completes i s
    obtain ⟨_, hpend, _⟩ := exec_own ht
    exact ⟨t, e.trans ht, hpend⟩
  · exact ⟨_, e, rfl⟩

/-- A mapped write answers a next state and leaves the host's list as it is. -/
theorem hostWrite_completes {a : Addr} {n : Nat} {l : Location} (v : Word) (s : State)
    (h : locate Config.params a.toNat n = some l) :
    ∃ t, hostWrite Config.params a n v s = .next t ∧ t.pending = s.pending := by
  rcases l with r | ⟨b, i⟩
  · by_cases hr : r = .CMD
    · subst hr
      rw [hostWrite_cmd v s h]
      exact runCommand_completes v s
    · obtain ⟨_, _, _, hpend, _⟩ := writeReg_buffers r v s
      exact ⟨_, hostWrite_reg v s h hr, hpend⟩
  · exact ⟨_, hostWrite_byte v s h, State.storeByte_pending s b i _⟩

/-- A host action that answers a next state leaves the rest of the host's list as it is. -/
theorem perform_pending {act : HostAction} {s t : State} (h : perform Config.params act s = .next t) :
    t.pending = s.pending := by
  rcases perform_next_cases h with ⟨_, rfl⟩ | ⟨_, rfl⟩ | ⟨r, w, rfl⟩ | ⟨b, i, v, _, rfl⟩ | ⟨_, _, w, _, _, hc⟩
  · rfl
  · rfl
  · obtain ⟨_, _, _, hpend, _⟩ := writeReg_buffers r w s
    exact hpend
  · exact State.storeByte_pending s b i v
  · obtain ⟨t', ht', hpend⟩ := runCommand_completes w s
    cases hc.symm.trans ht'
    exact hpend

/-- The write of a byte to a buffer, the byte carried in bits 7:0 of the word. -/
theorem hostWrite_setWidth_byte {P : Params} {a : Addr} {n : Nat} {b : Buf} {i : Nat} (v : Byte) (s : State)
    (h : locate P a.toNat n = some (.byte b i)) :
    hostWrite P a n (v.setWidth 32) s = .next (s.storeByte b i v) := by
  have hv : (v.setWidth 32).setWidth 8 = v := by simp
  rw [hostWrite_byte _ s h, hv]

/-- The write of one byte changes no register. -/
@[simp] theorem readReg_storeByte (P : Params) (r : RegName) (s : State) (b : Buf) (i : Nat) (v : Byte) :
    readReg P r (s.storeByte b i v) = readReg P r s := readReg_storeBytes P r s b i [v]

/-- After a refusal the host goes on with its next action and an unchanged block (R43, log entry 6). -/
theorem hostStep_of_refused {s : State} {r : Refusal} (h : step s = .refused r) :
    hostStep s = s.begin s.pending.tail .busError := by
  rw [hostStep, h]

end Sys2Proof.Machine
end

section
/-! SUPPORT. A write to the block done twice leaves what it left once (spec/20_memory.md R44): no command and no
write reads the host's list or the reply, and each of them, run on the state it leaves, leaves that state. -/

namespace Sys2Proof.Machine

/-! ### Nothing reads the host's list or the reply -/

section
variable (P : Params) (s : State) (rest : List HostAction) (y : Reply)

theorem cksumCommand_begin : cksumCommand P (s.begin rest y) = (cksumCommand P s).begin rest y := by
  have hwindow : (s.begin rest y).window = s.window := rfl
  rw [cksumCommand, cksumCommand, hwindow, State.begin_flen, State.begin_ckOff, State.begin_ckLen]
  split
  · rfl
  · split <;> rfl

theorem parseCommand_begin : parseCommand P (s.begin rest y) = (parseCommand P s).begin rest y := by
  have hframe : (s.begin rest y).bytes .frame 0 s.flen.toNat = s.bytes .frame 0 s.flen.toNat := rfl
  rw [parseCommand, parseCommand, State.begin_flen, hframe]
  split
  · rfl
  · split <;> rfl

theorem serializeCommand_begin :
    serializeCommand P (s.begin rest y) = (serializeCommand P s).begin rest y := by
  have hmessage : (s.begin rest y).message = s.message := rfl
  rw [serializeCommand, serializeCommand, State.begin_plen, hmessage]
  split <;> rfl

theorem writeReg_begin (r : RegName) (w : Word) :
    writeReg r w (s.begin rest y) = (writeReg r w s).begin rest y := by cases r <;> rfl

theorem storeByte_begin (b : Buf) (i : Nat) (v : Byte) :
    (s.begin rest y).storeByte b i v = (s.storeByte b i v).begin rest y := by cases b <;> rfl

end

section
variable {P : Params} {s t : State} (rest : List HostAction) (y : Reply)

theorem execAt_begin {i : Instr} (h : execAt P i s = .next t) :
    execAt P i (s.begin rest y) = .next (t.begin rest y) := by
  cases i <;> cases h
  case nop => rfl
  case cksum => exact congrArg Host.Outcome.next (cksumCommand_begin P s rest y)
  case parse => exact congrArg Host.Outcome.next (parseCommand_begin P s rest y)
  case serialize => exact congrArg Host.Outcome.next (serializeCommand_begin P s rest y)
  case srst => rfl

theorem runCommand_begin {w : Word} (h : runCommand P w s = .next t) :
    runCommand P w (s.begin rest y) = .next (t.begin rest y) := by
  unfold runCommand at h ⊢
  split at h
  · exact execAt_begin rest y h
  · cases h
    rfl

theorem hostWrite_begin {a : Addr} {n : Nat} {v : Word} (h : hostWrite P a n v s = .next t) :
    hostWrite P a n v (s.begin rest y) = .next (t.begin rest y) := by
  unfold hostWrite at h ⊢
  split at h
  · exact runCommand_begin rest y h
  · cases h
    rw [writeReg_begin]
  · cases h
    rw [storeByte_begin]
  · cases h

end

/-! ### No command reads the earlier error -/

section
variable (P : Params) (s : State) (e : CmdError)

theorem cksumCommand_raise : cksumCommand P (s.raise e) = cksumCommand P s := rfl

theorem parseCommand_raise : parseCommand P (s.raise e) = parseCommand P s := rfl

theorem serializeCommand_raise : serializeCommand P (s.raise e) = serializeCommand P s := rfl

end

/-! ### The successes of the commands, by their conditions -/

theorem cksumCommand_inside {P : Params} {s : State} (hcap : s.flen.toNat ≤ P.frameCap)
    (hwin : s.ckOff.toNat + s.ckLen.toNat ≤ s.flen.toNat) :
    cksumCommand P s = (s.setCsum (cksum16 s.window)).succeed := by
  rcases cksumCommand_cases P s with ⟨_, _⟩ | ⟨_, _, e⟩
  · omega
  · exact e

theorem parseCommand_long {P : Params} {s : State} (hcap : s.flen.toNat ≤ P.frameCap) (hlen : 28 ≤ s.flen.toNat) :
    parseCommand P s = parsedState s := by
  rcases parseCommand_cases P s with ⟨_, _⟩ | ⟨_, _, _⟩ | ⟨_, _, _, _⟩ | ⟨_, _, e⟩
  · omega
  · omega
  · omega
  · exact e

theorem serializeCommand_fits {P : Params} {s : State} (hcap : s.plen.toNat ≤ P.payCap) :
    serializeCommand P s = serializedState s := by
  rcases serializeCommand_cases P s with ⟨_, _⟩ | ⟨_, e⟩
  · omega
  · exact e

/-! ### A write on the state it leaves -/

theorem writeReg_twice (r : RegName) (w : Word) (s : State) :
    writeReg r w (writeReg r w s) = writeReg r w s := by cases r <;> rfl

/-- Writing the same byte twice leaves the data of writing it once. -/
theorem Memory.store_twice {cap i : Nat} {m : Memory} (v : Byte) (h : Memory.wf cap m = true) (hi : i < cap) :
    Memory.store (Memory.store m i v) i v = Memory.store m i v := Memory.storeRange_twice (bs := [v]) h hi

/-- Writing the bytes that a buffer holds already changes nothing. -/
theorem State.storeBytes_eq_self {s : State} {b : Buf} {i : Nat} {bs : List Byte}
    (h : Memory.storeRange (s.buf b) i bs = s.buf b) : s.storeBytes b i bs = s := by
  cases b with
  | frame => exact congrArg (s.setBuf .frame) h
  | payload => exact congrArg (s.setBuf .payload) h

/-- `CKSUM` changes nothing that it reads. -/
theorem cksumCommand_twice (P : Params) (s : State) :
    cksumCommand P (cksumCommand P s) = cksumCommand P s := by
  rcases cksumCommand_cases P s with ⟨_, e⟩ | ⟨hcap, hwin, e⟩
  · rw [e, cksumCommand_raise, e]
  · rw [e, cksumCommand_inside (s := (s.setCsum (cksum16 s.window)).succeed) hcap hwin]
    rfl

section
variable {P : Params} {s t : State} (hs : s.wf P = true)
include hs

theorem storeByte_twice {b : Buf} {i : Nat} (v : Byte) (hi : i < P.cap b) :
    (s.storeByte b i v).storeByte b i v = s.storeByte b i v := by
  obtain ⟨hf, hp⟩ := (State.wf_iff P s).1 hs
  cases b with
  | frame => exact congrArg (s.setBuf .frame) (Memory.store_twice v hf hi)
  | payload => exact congrArg (s.setBuf .payload) (Memory.store_twice v hp hi)

/-- `PARSE` writes the same message again: it reads `FLEN` and `FRAME`, which it keeps. -/
theorem parseCommand_twice : parseCommand P (parseCommand P s) = parseCommand P s := by
  obtain ⟨_, hp⟩ := (State.wf_iff P s).1 hs
  rcases parseCommand_cases P s with ⟨_, e⟩ | ⟨_, _, e⟩ | ⟨_, _, _, e⟩ | ⟨hcap, hlen, e⟩
  · rw [e, parseCommand_raise, e]
  · rw [e, parseCommand_raise, e]
  · rw [e, parseCommand_raise, e]
  · rw [e, parseCommand_long (s := parsedState s) hcap hlen]
    have hfit : 0 + (s.bytes .frame 28 (s.flen.toNat - 28)).length ≤ P.payCap := by
      simp only [State.length_bytes, Params.payCap]
      omega
    have hstore : (parsedState s).storeBytes .payload 0 (s.bytes .frame 28 (s.flen.toNat - 28)) = parsedState s :=
      State.storeBytes_eq_self (Memory.storeRange_twice hp hfit)
    exact hstore

/-- `SERIALIZE` writes the same segment again: it reads the message registers, `PLEN` and `PAYLOAD`, which it
keeps. -/
theorem serializeCommand_twice (hP : 8 ≤ P.frameCap) :
    serializeCommand P (serializeCommand P s) = serializeCommand P s := by
  obtain ⟨hf, _⟩ := (State.wf_iff P s).1 hs
  rcases serializeCommand_cases P s with ⟨_, e⟩ | ⟨hcap, e⟩
  · rw [e, serializeCommand_raise, e]
  · rw [e, serializeCommand_fits (s := serializedState s) hcap]
    have hfit : 0 + (serializeMsg s.message).length ≤ P.frameCap := by
      simp only [length_serializeMsg, State.length_message_payload]
      simp only [Params.payCap] at hcap
      omega
    have hstore : (serializedState s).storeBytes .frame 0 (serializeMsg s.message) = serializedState s :=
      State.storeBytes_eq_self (Memory.storeRange_twice hf hfit)
    have hmessage : (serializedState s).message = s.message := rfl
    rw [serializedState, hmessage, hstore]
    rfl

theorem execAt_twice {i : Instr} (hP : 8 ≤ P.frameCap) (h : execAt P i s = .next t) :
    execAt P i t = .next t := by
  cases i <;> cases h
  case nop => rfl
  case cksum => exact congrArg Host.Outcome.next (cksumCommand_twice P s)
  case parse => exact congrArg Host.Outcome.next (parseCommand_twice hs)
  case serialize => exact congrArg Host.Outcome.next (serializeCommand_twice hs hP)
  case srst => rfl

theorem runCommand_twice {w : Word} (hP : 8 ≤ P.frameCap) (h : runCommand P w s = .next t) :
    runCommand P w t = .next t := by
  unfold runCommand at h ⊢
  split at h
  · exact execAt_twice hs hP h
  · cases h
    rfl

theorem hostWrite_twice {a : Addr} {n : Nat} {v : Word} (hP : 8 ≤ P.frameCap)
    (h : hostWrite P a n v s = .next t) : hostWrite P a n v t = .next t := by
  unfold hostWrite at h ⊢
  split at h
  · exact runCommand_twice hs hP h
  · cases h
    rw [writeReg_twice]
  · rename_i hl
    cases h
    rw [storeByte_twice hs _ (locate_byte_lt hl)]
  · cases h

end

/-- A host access on the state it left, whatever the host's list and the reply are then. -/
theorem sameBlock_of_perform_twice {P : Params} {act : HostAction} {s t u : State} {rest : List HostAction}
    {y : Reply} (hP : 8 ≤ P.frameCap) (hs : s.wf P = true) (hact : act ≠ .reset)
    (ht : perform P act s = .next t) (hu : perform P act (t.begin rest y) = .next u) : SameBlock t u := by
  cases act with
  | read a n =>
    obtain ⟨y', rfl⟩ := hostRead_next hu
    exact sameBlock_setReply_begin t rest y y'
  | write a n v =>
    have hagain := hostWrite_begin rest y (hostWrite_twice hs hP ht)
    cases hagain.symm.trans hu
    exact sameBlock_begin t rest y
  | reset => exact absurd rfl hact

end Sys2Proof.Machine
end

section
/-! The statements of spec/20_memory.md, settled. -/

namespace Sys2Proof.Machine

/-- Settles O13: the address designates the byte (`locate_frame`, `locate_payload`), then the laws of the write of
one byte. -/
theorem bufferBytesReadAndWrite : Obligations.BufferBytesReadAndWrite := by
  intro s a b i v rest haddr
  have hloc : locate Config.params a.toNat 1 = some (.byte b i) := by
    rcases haddr with ⟨rfl, hi, ha⟩ | ⟨rfl, hi, ha⟩
    · exact locate_frame ha hi
    · exact locate_payload ha hi
  refine ⟨fun h => ?_, fun h => ?_⟩ <;> rw [step_cons h, perform]
  · rw [hostRead_byte _ hloc, State.byte_begin]
    rfl
  · rw [hostWrite_setWidth_byte v _ hloc]
    refine ⟨_, rfl, ?_, fun k hk => ?_, fun b' hb k hk => ?_, fun r _ => ?_, by simp, by simp⟩
    · rw [State.byte_storeByte, if_pos ⟨rfl, rfl⟩]
    · rw [bytesKept_storeByte_same _ b i v k hk, State.byte_begin]
    · rw [bytesKept_storeByte_other _ i v hb k hk, State.byte_begin]
    · rw [readReg_storeByte, readReg_begin]

/-- Settles O14: `mapped_iff_locate` turns the map into what the access designates; a refusal keeps the block. -/
theorem unmappedAccessIsABusError : Obligations.UnmappedAccessIsABusError := by
  intro s a n v rest hp
  refine ⟨fun hun => ?_, fun hmap => ?_⟩
  · have hl := locate_none_of_not_mapped hun
    have hstep : step s = .refused (.busError a n) := by
      rcases hp with h | h <;> rw [step_cons h, perform]
      · exact hostRead_none _ hl
      · exact hostWrite_none v _ hl
    have htail : s.pending.tail = rest := by rcases hp with h | h <;> rw [h] <;> rfl
    rw [hostStep_of_refused hstep, htail]
    exact ⟨hstep, sameBlock_begin s _ _, rfl, rfl⟩
  · obtain ⟨l, hl⟩ := (mapped_iff_locate a n).1 hmap
    rcases hp with h | h <;> rw [step_cons h, perform]
    · obtain ⟨y, e⟩ := hostRead_completes (s.begin rest .completed) hl
      exact ⟨_, e, rfl⟩
    · exact hostWrite_completes v (s.begin rest .completed) hl

/-- Settles O15: the second access meets the state the first left, but for the host's list and the reply
(`sameBlock_of_perform_twice`). -/
theorem repeatedAccessIsIdempotent : Obligations.RepeatedAccessIsIdempotent := by
  intro s t u act rest hs hp hact ht hu
  rw [step_cons hp] at ht
  have hpt : t.pending = act :: rest := perform_pending ht
  rw [step_cons hpt] at hu
  exact sameBlock_of_perform_twice (s := s.begin (act :: rest) .completed) (by decide) hs hact ht hu

/-- Settles O16: a mapped read changes the reply alone (`hostRead_next`), a refused one not even that. -/
theorem readsChangeNoState : Obligations.ReadsChangeNoState := by
  intro s a n rest hp
  rcases hostStep_cases s with h | e
  · rw [step_cons hp, perform] at h
    obtain ⟨y, e⟩ := hostRead_next h
    rw [e]
    exact ⟨sameBlock_setReply_begin s _ _ _, rfl⟩
  · rw [e, hp]
    exact ⟨sameBlock_begin s _ _, rfl⟩

end Sys2Proof.Machine
end

/-! ## Proofs: the encoding (spec/30_encoding.md) -/

section
/-! SUPPORT. The decoder as the inverse of the encoder, and the codes that `STATUS` reads (spec/30_encoding.md R54
to R56, R60). -/

namespace Sys2Proof.Machine

/-! ### The decoder -/

/-- A command word is its two fields (R54). -/
theorem zeroField_append_opcField (w : Word) : zeroField w ++ opcField w = w :=
  (BitVec.extractLsb'_append_extractLsb'_eq_extractLsb' rfl).trans BitVec.extractLsb'_eq_self

/-- Only the operation code of a command selects it (R55). -/
theorem opcode_of_commandOf {opc : Byte} {i : Instr} (h : commandOf opc = some i) : opcode i = opc := by
  unfold commandOf at h
  repeat' split at h
  all_goals cases h
  all_goals exact Eq.symm ‹_›

/-- A word that decodes to a command is that command's encoding. -/
theorem encode_of_decode {w : Word} {i : Instr} (h : decode w = .command i) : encode i = w := by
  unfold decode at h
  split at h
  · cases h
  · rename_i hzero
    split at h
    · rename_i hcmd
      cases h
      rw [← zeroField_append_opcField w, not_not.1 hzero, ← opcode_of_commandOf hcmd]
      rfl
    · cases h

theorem decode_eq_command_iff (w : Word) (i : Instr) : decode w = .command i ↔ encode i = w :=
  ⟨encode_of_decode, fun h => h ▸ decode_encode i⟩

/-- A word that is no command's encoding is reserved. -/
theorem decode_reserved_of_ne_encode {w : Word} (h : ∀ i, encode i ≠ w) : ∃ why, decode w = .reserved why := by
  rcases hd : decode w with i | why
  · exact absurd (encode_of_decode hd) (h i)
  · exact ⟨why, rfl⟩

/-! ### `STATUS` -/

/-- `STATUS` reads the code of the error in its low four bits (R18). -/
theorem CmdError.statusWord_err (e : CmdError) : (e.statusBits.setWidth 32).extractLsb 3 0 = e.errCode := by
  cases e <;> decide

theorem CmdError.errCode_le (e : CmdError) : e.errCode.toNat ≤ 4 := by cases e <;> decide

/-- Bit 4 is set for the two truncation errors alone (R60). -/
theorem CmdError.statusWord_malformed (e : CmdError) :
    (e.statusBits.setWidth 32).extractLsb 4 4 = 1 ↔ e = .truncatedIpHeader ∨ e = .truncatedIcmpHeader := by
  cases e <;> decide

theorem CmdError.statusWord_unused (e : CmdError) : (e.statusBits.setWidth 32).extractLsb 31 5 = 0 := by
  cases e <;> decide

theorem readReg_status_raise (P : Params) (s : State) (e : CmdError) :
    readReg P .STATUS (s.raise e) = e.statusBits.setWidth 32 := rfl

/-- An error changes no register but `STATUS` (R106). -/
theorem regsKept_raise {rs : List RegName} (h : .STATUS ∈ rs) (s : State) (e : CmdError) :
    RegsKept rs s (s.raise e) := fun r hr => by
  cases r
  case STATUS => exact absurd h hr
  all_goals rfl

end Sys2Proof.Machine
end

section
/-! SUPPORT. What each command may write (spec/30_encoding.md R57). -/

namespace Sys2Proof.Machine

/-- Only the registers of `rs`, the bytes of `FRAME` at the indices of `fr` and those of `PAYLOAD` at the indices of
`pl` may differ. -/
def WritesOnly (rs : List RegName) (fr pl : Nat → Prop) (s t : State) : Prop :=
  RegsKept rs s t ∧ BytesKept .frame fr s t ∧ BytesKept .payload pl s t ∧ OwnKept s t

theorem BytesKept.mono {b : Buf} {p q : Nat → Prop} {s t : State} (h : BytesKept b p s t) (hpq : ∀ k, p k → q k) :
    BytesKept b q s t := fun k hk => h k fun hp => hk (hpq k hp)

/-- A command that only sets the error, `NOP` among them, writes `STATUS`. -/
theorem writesOnly_raise {rs : List RegName} (h : .STATUS ∈ rs) (fr pl : Nat → Prop) (s : State) (e : CmdError) :
    WritesOnly rs fr pl s (s.raise e) :=
  ⟨regsKept_raise h s e, bytesKept_raise s e _ _, bytesKept_raise s e _ _, rfl, rfl, rfl⟩

theorem writesOnly_cksumCommand (P : Params) (fr pl : Nat → Prop) (s : State) :
    WritesOnly [.CSUM, .STATUS] fr pl s (cksumCommand P s) := by
  rcases cksumCommand_cases P s with ⟨_, e⟩ | ⟨_, _, e⟩ <;> rw [e]
  · exact writesOnly_raise (by decide) _ _ s _
  · refine ⟨fun r hr => ?_, bytesKept_of_buf rfl rfl, bytesKept_of_buf rfl rfl, rfl, rfl, rfl⟩
    cases r <;> simp at hr <;> rfl

theorem writesOnly_parseCommand (P : Params) (fr : Nat → Prop) (s : State) :
    WritesOnly [.TTL, .SRC, .DST, .TYPE, .TCLASS, .CODE, .CHECKSUM, .IDENT, .SEQ, .PLEN, .STATUS] fr
      (fun k => 28 ≤ s.flen.toNat ∧ s.flen.toNat ≤ P.frameCap ∧ k < s.flen.toNat - 28) s (parseCommand P s) := by
  rcases parseCommand_cases P s with ⟨_, e⟩ | ⟨_, _, e⟩ | ⟨_, _, _, e⟩ | ⟨hcap, hlen, e⟩ <;> rw [e]
  · exact writesOnly_raise (by decide) _ _ s _
  · exact writesOnly_raise (by decide) _ _ s _
  · exact writesOnly_raise (by decide) _ _ s _
  · refine ⟨fun r hr => ?_, bytesKept_of_buf rfl rfl, fun k hk => ?_, rfl, rfl, rfl⟩
    · cases r <;> simp at hr <;> rfl
    · rw [parsedState_byte_payload, if_neg fun h => hk ⟨hlen, hcap, h⟩]

theorem writesOnly_serializeCommand (P : Params) (pl : Nat → Prop) (s : State) :
    WritesOnly [.FLEN, .CSUM, .STATUS] (fun k => s.plen.toNat ≤ P.payCap ∧ k < 8 + s.plen.toNat) pl s
      (serializeCommand P s) := by
  rcases serializeCommand_cases P s with ⟨_, e⟩ | ⟨hcap, e⟩ <;> rw [e]
  · exact writesOnly_raise (by decide) _ _ s _
  · refine ⟨fun r hr => ?_, (serializedState_bytesKept_frame s).mono fun _ hk => ⟨hcap, hk⟩,
      bytesKept_of_buf rfl rfl, rfl, rfl, rfl⟩
    cases r <;> simp at hr <;> rfl

theorem writesOnly_clearRegs (fr pl : Nat → Prop) (s : State) :
    WritesOnly [.STATUS, .FLEN, .PLEN, .CK_OFF, .CK_LEN, .CSUM, .TYPE, .TCLASS, .CODE, .CHECKSUM, .IDENT, .SEQ,
      .TTL, .SRC, .DST] fr pl s s.clearRegs := by
  refine ⟨fun r hr => ?_, bytesKept_of_buf rfl rfl, bytesKept_of_buf rfl rfl, rfl, rfl, rfl⟩
  cases r <;> simp at hr <;> rfl

end Sys2Proof.Machine
end

section
/-! SUPPORT. The statements of a host program followed by others, and the states in which the calls of
spec/30_encoding.md R66 run their command. -/

namespace Sys2Proof.Machine

@[simp] theorem State.begin_begin (s : State) (rest rest' : List HostAction) (y y' : Reply) :
    (s.begin rest y).begin rest' y' = s.begin rest' y' := rfl

@[simp] theorem State.message_begin (s : State) (rest : List HostAction) (y : Reply) :
    (s.begin rest y).message = s.message := rfl

@[simp] theorem State.bytes_begin (s : State) (rest : List HostAction) (y : Reply) (b : Buf) (i n : Nat) :
    (s.begin rest y).bytes b i n = s.bytes b i n := State.bytes_congr fun k _ => State.byte_begin s rest y b (i + k)

/-- `rd NAME`. -/
theorem step_rd {s : State} {r : RegName} {rest : List HostAction}
    (h : s.pending = rdAction Config.params r :: rest) :
    step s = .next ((s.begin rest .completed).setReply (.word (readReg Config.params r s))) := by
  rw [step_cons h, rdAction, perform, hostRead_reg _ (locate_regAddr r), readReg_begin]

/-- `ldf` or `ldp` with further actions after it. -/
theorem runSteps_load_append {s : State} {b : Buf} {r : RegName} {bs : List Byte} {rest : List HostAction} (n : Nat)
    (hr : r ≠ .CMD) (hlen : bs.length ≤ Config.params.cap b)
    (hp : s.pending
      = (fillActions Config.params b 0 bs ++ [wrAction Config.params r (BitVec.ofNat 32 bs.length)]) ++ rest) :
    runSteps (bs.length + (n + 1)) s = runSteps n ((loadedState s b r bs).begin rest .completed) := by
  obtain ⟨y, hrun⟩ := runSteps_fill b 0 bs _ s (n + 1) (by omega) (hp.trans (List.append_assoc _ _ _))
  rw [hrun, runSteps_wr n r hr rfl, loadedState, ← writeReg_begin]
  rfl

/-- After `ldf` the frame is the byte sequence. -/
theorem loadedState_frame (s : State) {bs : List Byte} (h : bs.length ≤ 2000) :
    (loadedState s .frame .FLEN bs).flen.toNat = bs.length
      ∧ (loadedState s .frame .FLEN bs).bytes .frame 0 bs.length = bs :=
  ⟨toNat_setWidth_length h, (loadedState_bytes s .frame .FLEN bs).1⟩

/-! ### `checksum(bytes)` -/

/-- The state in which the call runs `CKSUM`: the bytes loaded, the window the whole frame. -/
def wholeWindowState (s : State) (bs : List Byte) : State :=
  writeReg .CK_LEN (BitVec.ofNat 32 bs.length) (writeReg .CK_OFF 0 (loadedState s .frame .FLEN bs))

theorem cksumCommand_wholeWindowState (s : State) {bs : List Byte} (h : bs.length ≤ 2000) :
    cksumCommand Config.params (wholeWindowState s bs)
      = ((wholeWindowState s bs).setCsum (cksum16 bs)).succeed := by
  obtain ⟨hflen, hbytes⟩ := loadedState_frame s h
  have hflen' : (wholeWindowState s bs).flen.toNat = bs.length := hflen
  have hoff : (wholeWindowState s bs).ckOff.toNat = 0 := rfl
  have hcnt : (wholeWindowState s bs).ckLen.toNat = bs.length := toNat_setWidth_length h
  have hwindow : (wholeWindowState s bs).window = bs := by
    rw [State.window, hoff, hcnt]
    exact hbytes
  have hcap : Config.params.frameCap = 2000 := rfl
  rw [cksumCommand_inside (by omega) (by omega), hwindow]

/-! ### `toBytes` -/

/-- The state after the host has written the four message registers that `serialize_msg` reads. -/
def fieldsState (s : State) (m : IcmpMessage) : State :=
  writeReg .SEQ (m.sequenceNumber.setWidth 32) (writeReg .IDENT (m.identifier.setWidth 32)
    (writeReg .CODE (m.code.setWidth 32) (writeReg .TYPE (m.type.setWidth 32) s)))

theorem runSteps_fields {s : State} {m : IcmpMessage} {rest : List HostAction} (n : Nat)
    (hp : s.pending = wrAction Config.params .TYPE (m.type.setWidth 32)
      :: wrAction Config.params .CODE (m.code.setWidth 32) :: wrAction Config.params .IDENT (m.identifier.setWidth 32)
      :: wrAction Config.params .SEQ (m.sequenceNumber.setWidth 32) :: rest) :
    runSteps (n + 4) s = runSteps n ((fieldsState s m).begin rest .completed) := by
  rw [runSteps_wr _ .TYPE (by decide) hp, runSteps_wr _ .CODE (by decide) rfl, runSteps_wr _ .IDENT (by decide) rfl,
    runSteps_wr _ .SEQ (by decide) rfl]
  simp only [fieldsState, writeReg_begin, State.begin_begin]

/-- `serialize_msg` does not look at the checksum, `ttl` and the addresses (R88). -/
theorem serializeMsg_congr {m m' : IcmpMessage} (h : zeroedSegment m = zeroedSegment m') :
    serializeMsg m = serializeMsg m' := by
  rw [serializeMsg, serializeMsg, h]

/-- The message in the registers, once its fields are written and its payload is loaded. -/
theorem serializeMsg_message_loaded (s : State) {m : IcmpMessage} (h : m.payload.length ≤ 1992) :
    serializeMsg (loadedState (fieldsState s m) .payload .PLEN m.payload).message = serializeMsg m := by
  obtain ⟨hbytes, _, _⟩ := loadedState_bytes (fieldsState s m) .payload .PLEN m.payload
  have hplen : (loadedState (fieldsState s m) .payload .PLEN m.payload).plen.toNat = m.payload.length :=
    toNat_setWidth_length (by omega)
  refine serializeMsg_congr ?_
  rw [zeroedSegment, State.message, hplen, hbytes]
  simp [loadedState, fieldsState, writeReg, zeroedSegment]

end Sys2Proof.Machine
end

section
/-! The statements of spec/30_encoding.md, settled. -/

namespace Sys2Proof.Machine

/-- Settles O2: decoding inverts encoding (`decode_eq_command_iff`), and no encoding has a bit of 31:8 set or an
operation code above 4. -/
theorem decodeComparesTheWholeWord : Obligations.DecodeComparesTheWholeWord := by
  refine ⟨fun w i => ?_, by decide, fun w hw => ?_, fun w hw => ?_⟩
  · have hwf : i.wf = true := by cases i <;> rfl
    rw [decode_eq_command_iff, hwf, eq_self_iff_true, true_and]
  · refine decode_reserved_of_ne_encode fun i hi => hw ?_
    subst hi
    cases i <;> rfl
  · refine decode_reserved_of_ne_encode fun i hi => absurd hw ?_
    subst hi
    cases i <;> decide

/-- Settles O3: no encoding is above 4, so the word is reserved and the step raises `IllegalCommand`. -/
theorem reservedWordRaisesIllegalCommand : Obligations.ReservedWordRaisesIllegalCommand := by
  intro s w rest hp hw
  have hreserved : ∃ why, decode w = .reserved why := by
    refine decode_reserved_of_ne_encode fun i hi => absurd hw ?_
    subst hi
    cases i <;> decide
  obtain ⟨why, hd⟩ := hreserved
  have hstep : step s = .next ((s.begin rest .completed).raise .illegalCommand) := by
    rw [step_command hp, runCommand, hd]
  refine ⟨_, hstep, ?_, fun r hr => ?_, fun b i hi => ?_, rfl, rfl⟩
  · rw [readReg_status_raise]
    decide
  · rw [regsKept_raise (by decide) _ _ r hr, readReg_begin]
  · rw [bytesKept_raise _ _ b (fun _ => False) i hi, State.byte_begin]

/-- Settles O31: the parse looks at the length, at header bytes that are among those named, and at the segment. -/
theorem parseIgnoresTheOtherHeaderBytes : Obligations.ParseIgnoresTheOtherHeaderBytes := by
  intro d d' hlen hbytes
  have hseg : d.drop 20 = d'.drop 20 := List.ext_getElem? fun k => by
    rw [List.getElem?_drop, List.getElem?_drop, hbytes _ (.inr (by omega))]
  have hget (k : Nat) (hk : k = 8 ∨ 12 ≤ k) : d.getD k 0 = d'.getD k 0 := by
    rw [List.getD_eq_getElem?_getD, List.getD_eq_getElem?_getD, hbytes k hk]
  have hmsg : messageOf d = messageOf d' := by
    simp (disch := omega) only [messageOf, hseg, hget]
  rw [parseDgram, hlen, hseg, hmsg, parseDgram]

/-- Settles O41: command by command, by what each may write (`WritesOnly`). -/
theorem commandsWriteOnlyTheirDestinations : Obligations.CommandsWriteOnlyTheirDestinations := by
  intro i s
  cases i with
  | nop => exact ⟨_, rfl, writesOnly_raise (by decide) _ _ s .none⟩
  | cksum => exact ⟨_, rfl, writesOnly_cksumCommand _ _ _ s⟩
  | parse =>
    obtain ⟨hregs, hframe, hpay, hown⟩ := writesOnly_parseCommand Config.params (fun _ => False) s
    exact ⟨_, rfl, hregs, hframe.mono fun _ => False.elim, hpay.mono fun _ hk => ⟨rfl, hk⟩, hown⟩
  | serialize =>
    obtain ⟨hregs, hframe, hpay, hown⟩ := writesOnly_serializeCommand Config.params (fun _ => False) s
    exact ⟨_, rfl, hregs, hframe.mono fun _ hk => ⟨rfl, hk⟩, hpay.mono fun _ => False.elim, hown⟩
  | srst => exact ⟨_, rfl, writesOnly_clearRegs _ _ s⟩

/-- Settles O50: the load and the two register writes give `wholeWindowState`; then `CKSUM` and the read. -/
theorem checksumCallSequence : Obligations.ChecksumCallSequence := by
  intro s bs hlen hp
  have hload := runSteps_load_append (b := .frame) (r := .FLEN) 4 (by decide) hlen hp
  have hargs : runSteps 4 ((loadedState s .frame .FLEN bs).begin (expandAll Config.params
        [.cksum 0 (BitVec.ofNat 32 bs.length), .rd .CSUM]) .completed)
      = runSteps 2 ((wholeWindowState s bs).begin (expandAll Config.params [.cmd .cksum, .rd .CSUM]) .completed) := by
    rw [runSteps_wr 3 .CK_OFF (by decide) rfl, runSteps_wr 2 .CK_LEN (by decide) rfl]
    rfl
  have hcksum : step ((wholeWindowState s bs).begin (expandAll Config.params [.cmd .cksum, .rd .CSUM]) .completed)
      = .next (((wholeWindowState s bs).setCsum (cksum16 bs)).succeed.begin [rdAction Config.params .CSUM]
        .completed) := by
    rw [step_cmd rfl, exec_cksum, State.begin_begin, cksumCommand_begin, cksumCommand_wholeWindowState s hlen]
    rfl
  rw [hload, hargs, runSteps_of_step 1 hcksum, runSteps_one, step_rd rfl]
  exact ⟨_, rfl, rfl, rfl, rfl⟩

/-- Settles O51: after the load the frame is the byte sequence, and `PARSE` leaves what `parse_dgram` returns on the
frame (`parseCommand_result`). -/
theorem parseCallSequence : Obligations.ParseCallSequence := by
  intro s bs hlen hp
  obtain ⟨hflen, hbytes⟩ := loadedState_frame s hlen
  have hcap : (loadedState s .frame .FLEN bs).flen.toNat ≤ Config.params.frameCap := hflen.trans_le hlen
  obtain ⟨hres, _⟩ := parseCommand_result hcap
  rw [hflen, hbytes] at hres
  have hrun := runSteps_load_append (b := .frame) (r := .FLEN) 1 (by decide) hlen hp
  rw [hrun, runSteps_one, step_cmd rfl, exec_parse, State.begin_begin, parseCommand_begin]
  exact ⟨_, rfl, rfl, by rw [State.begin_status, State.message_begin, hres]⟩

/-- Settles O52: the registers and `PAYLOAD` hold a message that serializes as the given one, and `SERIALIZE` writes
its bytes. -/
theorem serializeCallSequence : Obligations.SerializeCallSequence := by
  intro s m hlen hp
  have hplen : (loadedState (fieldsState s m) .payload .PLEN m.payload).plen.toNat = m.payload.length :=
    toNat_setWidth_length (by omega)
  have hload : runSteps (m.payload.length + 2)
        ((fieldsState s m).begin (expandAll Config.params [.ldp m.payload, .cmd .serialize]) .completed)
      = runSteps 1 ((loadedState (fieldsState s m) .payload .PLEN m.payload).begin
        (expandAll Config.params [.cmd .serialize]) .completed) :=
    runSteps_load_append (b := .payload) (r := .PLEN) 1 (by decide) hlen rfl
  rw [runSteps_fields (rest := expandAll Config.params [.ldp m.payload, .cmd .serialize]) _ hp, hload, runSteps_one,
    step_cmd rfl, exec_serialize, State.begin_begin, serializeCommand_begin,
    serializeCommand_fits (P := Config.params) (hplen.trans_le hlen)]
  refine ⟨_, rfl, rfl, rfl, ?_⟩
  rw [State.bytes_begin, State.begin_flen, serializedState_flen_toNat (by omega), serializedState_bytes_frame,
    serializeMsg_message_loaded s hlen]

/-- Settles O1: each table word is its command's encoding. -/
theorem commandWordsDecodeAsTabled : Obligations.CommandWordsDecodeAsTabled :=
  ⟨decode_encode .nop, decode_encode .cksum, decode_encode .parse, decode_encode .serialize, decode_encode .srst⟩

/-- Settles O17: the bits of `STATUS`, for each of the five errors. -/
theorem statusReadsCodeAndClass : Obligations.StatusReadsCodeAndClass :=
  ⟨⟨rfl, rfl, rfl, rfl, rfl⟩, fun s => ⟨s.status.statusWord_err,
    (congrArg BitVec.toNat s.status.statusWord_err).trans_le s.status.errCode_le,
    s.status.statusWord_malformed, s.status.statusWord_unused⟩⟩

end Sys2Proof.Machine
end

/-! ## Proofs: the checksum engine (spec/40_checksum.md) -/

section
/-! SUPPORT. The fold as two unconditional steps, each of which keeps the residue modulo `0xFFFF` and keeps zero apart
(spec/40_checksum.md R73); from these, what determines `cksum16`, and which value of a checksum field verifies. -/

namespace Sys2Proof.Machine

/-! ### The fold -/

theorem foldStep_of_lt {acc : Word} (h : acc.toNat < 0x10000) : foldStep acc = acc := by
  apply BitVec.eq_of_toNat_eq
  rw [foldStep_toNat]
  omega

theorem foldStep_le (acc : Word) : (foldStep acc).toNat ≤ 0x1FFFE := by
  have := acc.isLt
  rw [foldStep_toNat]
  omega

/-- Two steps leave no carry: one step leaves at most `0x1FFFE`, and a second one adds the carry 1 to at most
`0xFFFE`. -/
theorem foldStep_foldStep_lt (acc : Word) : (foldStep (foldStep acc)).toNat < 0x10000 := by
  have := foldStep_le acc
  rw [foldStep_toNat]
  omega

/-- `2 ^ 16` is 1 modulo `0xFFFF`, so adding the high half to the low half keeps the residue. -/
theorem foldStep_mod (acc : Word) : (foldStep acc).toNat % 0xFFFF = acc.toNat % 0xFFFF := by
  rw [foldStep_toNat]
  omega

theorem foldStep_toNat_eq_zero_iff (acc : Word) : (foldStep acc).toNat = 0 ↔ acc.toNat = 0 := by
  rw [foldStep_toNat]
  omega

/-- A loop of at least two iterations is two steps, since a step keeps a value without a carry (log entry 11). -/
theorem foldLoop_add_two (n : Nat) (acc : Word) : foldLoop (n + 2) acc = foldStep (foldStep acc) := by
  by_cases h : acc.toNat < 0x10000
  · rw [foldLoop_of_lt _ h, foldStep_of_lt h, foldStep_of_lt h]
  · rw [foldLoop_succ, if_neg h]
    by_cases h' : (foldStep acc).toNat < 0x10000
    · rw [foldLoop_of_lt _ h', foldStep_of_lt h']
    · rw [foldLoop_succ, if_neg h', foldLoop_of_lt _ (foldStep_foldStep_lt acc)]

theorem fold_eq (acc : Word) : fold acc = foldStep (foldStep acc) := foldLoop_add_two 0 acc

theorem fold_lt (acc : Word) : (fold acc).toNat < 0x10000 := by
  rw [fold_eq]
  exact foldStep_foldStep_lt acc

theorem fold_mod (acc : Word) : (fold acc).toNat % 0xFFFF = acc.toNat % 0xFFFF := by
  rw [fold_eq, foldStep_mod, foldStep_mod]

theorem fold_toNat_eq_zero_iff (acc : Word) : (fold acc).toNat = 0 ↔ acc.toNat = 0 := by
  rw [fold_eq, foldStep_toNat_eq_zero_iff, foldStep_toNat_eq_zero_iff]

/-! ### The sum of the words -/

/-- Up to 131074 bytes the accumulator does not wrap (R72): 65537 words of at most `0xFFFF` are below `2 ^ 32`. -/
theorem sumWords_toNat {bs : List Byte} (h : bs.length ≤ 131074) : (sumWords bs 0).toNat = wordSum bs := by
  have := wordSum_le bs
  rw [sumWords_eq, zero_add, BitVec.toNat_ofNat, Nat.mod_eq_of_lt (by omega)]

theorem wordSum_eq_zero_iff (bs : List Byte) : wordSum bs = 0 ↔ ∀ b ∈ bs, b = 0 := by
  have hbyte (b : Byte) : b = 0 ↔ b.toNat = 0 := BitVec.toNat_inj.symm
  induction bs using wordsOf.induct with
  | case1 => simp
  | case2 hi =>
    rw [wordSum_single, List.forall_mem_singleton, hbyte]
    omega
  | case3 hi lo rest ih =>
    rw [wordSum_cons_cons, List.forall_mem_cons, List.forall_mem_cons, ih.symm, hbyte, hbyte]
    omega

/-- A zero byte at the end adds nothing: it is the low byte that an odd last word has anyway, or the high byte of a
zero word. -/
theorem wordSum_append_zero (bs : List Byte) : wordSum (bs ++ [0]) = wordSum bs := by
  induction bs using wordsOf.induct with
  | case1 => rfl
  | case2 hi => simp [wordSum_cons_cons, wordSum_single]
  | case3 hi lo rest ih => rw [List.cons_append, List.cons_append, wordSum_cons_cons, wordSum_cons_cons, ih]

/-- The bytes of a list of words, before any further bytes: an even number of them, so every word stays one word. -/
theorem wordSum_flatMap_append (ws : List (Byte × Byte)) (tail : List Byte) :
    wordSum (ws.flatMap (fun p => [p.1, p.2]) ++ tail)
      = (ws.map fun p => p.1.toNat * 256 + p.2.toNat).sum + wordSum tail := by
  induction ws with
  | nil => simp
  | cons p ws ih =>
    rw [List.flatMap_cons, List.append_assoc, List.cons_append, List.cons_append, List.nil_append, wordSum_cons_cons,
      ih, List.map_cons, List.sum_cons, Nat.add_assoc (_ + _)]

/-! ### What determines `cksum16`

Where the accumulator does not wrap, the checksum added to the sum of the words is a multiple of `0xFFFF`, and of the
two representatives of the residue 0 it is `0xFFFF` exactly when the sum is 0. -/

section
variable {bs : List Byte} (h : bs.length ≤ 131074)
include h

theorem wordSum_add_cksum16_mod : (wordSum bs + (cksum16 bs).toNat) % 0xFFFF = 0 := by
  have hmod := fold_mod (sumWords bs 0)
  have hlt := fold_lt (sumWords bs 0)
  rw [sumWords_toNat h] at hmod
  rw [cksum16_toNat]
  omega

theorem cksum16_eq_ones_iff : cksum16 bs = 0xFFFF ↔ wordSum bs = 0 := by
  have hzero := fold_toNat_eq_zero_iff (sumWords bs 0)
  have hlt := fold_lt (sumWords bs 0)
  have hones : (0xFFFF : Half).toNat = 0xFFFF := rfl
  rw [sumWords_toNat h] at hzero
  rw [← BitVec.toNat_inj, cksum16_toNat, hones]
  omega

theorem cksum16_eq_zero_iff : cksum16 bs = 0 ↔ wordSum bs ≠ 0 ∧ wordSum bs % 0xFFFF = 0 := by
  have hmod := wordSum_add_cksum16_mod h
  have hones := cksum16_eq_ones_iff h
  have hlt := (cksum16 bs).isLt
  simp only [← BitVec.toNat_inj, BitVec.reduceToNat] at hones ⊢
  omega

/-- Over a field that holds zero, exactly these values verify: the checksum, and `0xFFFF` in place of a computed
`0x0000` (R79, R94). -/
theorem cksum16_putHalf_eq_zero_iff {k : Nat} (v : Half) (hk : k % 2 = 0) (hl : k + 1 < bs.length)
    (hz : getHalf bs k = 0) :
    cksum16 (putHalf bs k v) = 0 ↔ v = cksum16 bs ∨ cksum16 bs = 0 ∧ v = 0xFFFF := by
  have hsum := wordSum_putHalf bs k v hk hl
  have hmod := wordSum_add_cksum16_mod h
  have hones := cksum16_eq_ones_iff h
  have hlt := (cksum16 bs).isLt
  have hv := v.isLt
  rw [cksum16_eq_zero_iff ((length_putHalf bs k v).trans_le h)]
  simp only [hz, ← BitVec.toNat_inj, BitVec.reduceToNat] at hsum hones ⊢
  omega

end

/-! ### The checksum of a segment -/

/-- Putting the checksum over a zero field verifies (R79). -/
theorem cksum16_putHalf_cksum16 {bs : List Byte} {k : Nat} (h : bs.length ≤ 131074) (hk : k % 2 = 0)
    (hl : k + 1 < bs.length) (hz : getHalf bs k = 0) : cksum16 (putHalf bs k (cksum16 bs)) = 0 :=
  (cksum16_putHalf_eq_zero_iff h _ hk hl hz).2 (.inl rfl)

/-- `cksum16_putHalf_eq_zero_iff` for a received sequence, whose zeroed form is computed (R92, R94). -/
theorem cksum16_eq_zero_iff_getHalf {bs : List Byte} {k : Nat} (h : bs.length ≤ 131074) (hk : k % 2 = 0)
    (hl : k + 1 < bs.length) :
    cksum16 bs = 0 ↔ getHalf bs k = cksum16 (putHalf bs k 0)
      ∨ cksum16 (putHalf bs k 0) = 0 ∧ getHalf bs k = 0xFFFF := by
  have hlen := length_putHalf bs k 0
  have hiff := cksum16_putHalf_eq_zero_iff (hlen.trans_le h) (getHalf bs k) hk (hl.trans_eq hlen.symm)
    (getHalf_putHalf bs k 0 hl)
  rwa [putHalf_putHalf, putHalf_getHalf bs k hl] at hiff

theorem cksum16_serializeMsg {m : IcmpMessage} (h : m.payload.length ≤ 131066) : cksum16 (serializeMsg m) = 0 := by
  have hlen := length_zeroedSegment m
  have hz : getHalf (zeroedSegment m) 2 = 0 := by
    rw [← putHalf_serializeMsg, getHalf_putHalf _ 2 0 (by simp)]
  rw [serializeMsg_eq_putHalf]
  exact cksum16_putHalf_cksum16 (by omega) rfl (by omega) hz

/-- `CKSUM` on a window of the frame chosen by the host (R76). -/
theorem exec_cksum_on_window {s : State} {off cnt : Half} (hcap : s.flen.toNat ≤ 2000)
    (hwin : off.toNat + cnt.toNat ≤ s.flen.toNat) :
    ∃ u, exec .cksum { s with ckOff := off, ckLen := cnt } = .next u ∧ u.status = .none
      ∧ u.csum = cksum16 (s.bytes .frame off.toNat cnt.toNat) := by
  rw [exec_cksum, cksumCommand_inside (P := Config.params) (s := { s with ckOff := off, ckLen := cnt }) hcap hwin]
  exact ⟨_, rfl, rfl, rfl⟩

/-- A `SERIALIZE` that succeeds had room for the payload (R89). -/
theorem serializeCommand_of_status_none {P : Params} {s : State} (h : (serializeCommand P s).status = .none) :
    s.plen.toNat ≤ P.payCap ∧ serializeCommand P s = serializedState s := by
  rcases serializeCommand_cases P s with ⟨_, e⟩ | hfits
  · rw [e] at h
    cases h
  · exact hfits

/-- A parse that succeeds had at least 28 bytes (R83). -/
theorem of_parseDgram_message {d : List Byte} {m : IcmpMessage} (h : parseDgram d = .message m) :
    28 ≤ d.length ∧ m = messageOf d := by
  rcases Nat.lt_or_ge d.length 28 with hlt | hge
  · rcases Nat.lt_or_ge d.length 20 with hlt' | hge'
    · rw [parseDgram_short hlt'] at h
      cases h
    · rw [parseDgram_middle hge' hlt] at h
      cases h
  · rw [parseDgram_long hge] at h
    cases h
    exact ⟨hge, rfl⟩

/-- The segment of a datagram with its field zeroed is the zeroed segment of the parsed message (R84, R91). -/
theorem zeroedSegment_messageOf {d : List Byte} (h : 28 ≤ d.length) :
    zeroedSegment (messageOf d) = putHalf (d.drop 20) 2 0 := by
  have hlen : 8 ≤ (d.drop 20).length := by simp; omega
  rw [zeroedSegment]
  simp only [messageOf, hi8_be16, lo8_be16]
  match d.drop 20, hlen with
  | _ :: _ :: _ :: _ :: _ :: _ :: _ :: _ :: _, _ => rfl

theorem getElem?_putHalf_other (bs : List Byte) (v : Half) {k j : Nat} (h : j ≠ k) (h' : j ≠ k + 1) :
    (putHalf bs k v)[j]? = bs[j]? := by
  rw [putHalf, List.getElem?_set_ne h'.symm, List.getElem?_set_ne h.symm]

/-- A sequence with a field put in is itself exactly when the field had that value. -/
theorem putHalf_eq_self_iff {bs : List Byte} {k : Nat} (v : Half) (h : k + 1 < bs.length) :
    putHalf bs k v = bs ↔ getHalf bs k = v := by
  constructor
  · intro e
    rw [← getHalf_putHalf bs k v h, e]
  · rintro rfl
    exact putHalf_getHalf bs k h

end Sys2Proof.Machine
end

section
/-! The statements of spec/40_checksum.md, and those of spec/41_codec.md about the checksum of a segment, settled. -/

namespace Sys2Proof.Machine

/-- Settles O23: the bound on each word, summed (`wordSum_le`), and the accumulator below it (`sumWords_toNat`). -/
theorem accumulatorNeverWraps : Obligations.AccumulatorNeverWraps := by
  intro bs
  have hle := wordSum_le bs
  exact ⟨hle, sumWords_toNat, fun h => by omega⟩

/-- Settles O24: the value of one step (`foldStep_toNat`), and the fold as two steps (`fold_eq`). -/
theorem foldNeedsAtMostTwoSteps : Obligations.FoldNeedsAtMostTwoSteps := by
  intro acc
  have hle := foldStep_le acc
  have hlt := fold_lt acc
  have hmod := fold_mod acc
  have hzero := fold_toNat_eq_zero_iff acc
  refine ⟨fun h => ?_, foldStep_of_lt, hle, fun h => ⟨?_, ?_⟩, hlt, fold_eq acc, fun n => ?_, hmod, ?_, fun h => ?_⟩
  · rw [foldStep_toNat]
    omega
  · apply BitVec.eq_of_toNat_eq
    simp only [BitVec.extractLsb_toNat, Nat.shiftRight_eq_div_pow, BitVec.reduceToNat]
    omega
  · simp only [BitVec.extractLsb_toNat, Nat.shiftRight_eq_div_pow]
    omega
  · rw [foldLoop_add_two, fold_eq]
  · simpa only [← BitVec.toNat_inj, BitVec.reduceToNat] using hzero
  · omega

/-- Settles O25: the checksum is `0xFFFF` exactly for the sum 0 (`cksum16_eq_ones_iff`), and the sum is 0 exactly when
every byte is (`wordSum_eq_zero_iff`). -/
theorem checksumIsFFFFExactlyOnZeros : Obligations.ChecksumIsFFFFExactlyOnZeros :=
  ⟨fun bs h => (cksum16_eq_ones_iff h).trans (wordSum_eq_zero_iff bs), by decide, by decide⟩

/-- Settles O26: the residue modulo `0xFFFF` leaves one value below `0xFFFF`, or 0 and `0xFFFF`, which the two `iff`
lemmas tell apart. -/
theorem checksumClosedForm : Obligations.ChecksumClosedForm := by
  intro bs h
  refine ⟨(cksum16_eq_ones_iff h).2, fun hne hmul => (cksum16_eq_zero_iff h).2 ⟨hne, hmul⟩, fun hne => ?_⟩
  have hmod := wordSum_add_cksum16_mod h
  have hlt := (cksum16 bs).isLt
  omega

/-- Settles O27: the field at `k` is zero, so its checksum put there verifies. -/
theorem storedChecksumVerifies : Obligations.StoredChecksumVerifies := by
  intro bs k hlen hk hl h0 h1
  have hz : getHalf bs k = 0 := by
    rw [getHalf, List.getD_eq_getElem?_getD, List.getD_eq_getElem?_getD, h0, h1]
    rfl
  exact cksum16_putHalf_cksum16 (by omega) hk hl hz

/-- Settles O28: the checksum depends on the sum of the words alone (`cksum16_congr`); the negative clauses on one
word. -/
theorem checksumOrderAndPadding : Obligations.ChecksumOrderAndPadding := by
  have hpad (bs : List Byte) : wordSum (bs ++ [0, 0]) = wordSum bs := by
    rw [List.append_cons, wordSum_append_zero, wordSum_append_zero]
  refine ⟨fun _ _ => cksum16_congr, fun ws ws' tail hperm _ => cksum16_congr ?_, fun bs => cksum16_congr (hpad bs),
    fun bs _ => cksum16_congr (wordSum_append_zero bs), ⟨0, 1, by decide⟩, ⟨0, [1], by decide⟩⟩
  rw [wordSum_flatMap_append, wordSum_flatMap_append, (hperm.map _).sum_eq]

/-- Settles O29: the two cases of `cksumCommand_cases`, with the frame of the command (`WritesOnly`). -/
theorem cksumSumsTheWindow : Obligations.CksumSumsTheWindow := by
  refine ⟨decode_encode .cksum, fun s => ⟨fun hcap hwin => ⟨_, rfl, ?_⟩, fun hbad => ?_⟩⟩
  · obtain ⟨hregs, hframe, hpayload, hown⟩ :=
      writesOnly_cksumCommand Config.params (fun _ => False) (fun _ => False) s
    have hbytes (b : Buf) : BytesKept b (fun _ => False) s (cksumCommand Config.params s) := by
      cases b <;> assumption
    have hstatus : (cksumCommand Config.params s).status = .none := by
      rw [cksumCommand_inside hcap hwin]
      rfl
    refine ⟨?_, ?_, hregs, hbytes, hown⟩
    · rw [cksumCommand_inside hcap hwin]
      rfl
    · rw [readReg, hstatus]
      decide
  · rcases cksumCommand_cases Config.params s with ⟨_, e⟩ | ⟨hcap, hwin, _⟩
    · exact congrArg Host.Outcome.next e
    · have : Config.params.frameCap = 2000 := rfl
      omega

/-- Settles O36: the segment that `SERIALIZE` writes verifies (`cksum16_serializeMsg`), and so does a received one
with the right field (`cksum16_eq_zero_iff_getHalf`); `CKSUM` sums either window. -/
theorem serializedMessageVerifies : Obligations.SerializedMessageVerifies := by
  refine ⟨fun m h => cksum16_serializeMsg (by omega), fun s t ht hs => ?_, fun s hlo hhi hfield => ?_⟩
  · cases ht
    obtain ⟨hfits, e⟩ := serializeCommand_of_status_none hs
    have hcap : Config.params.payCap = 1992 := rfl
    have hflen := serializedState_flen_toNat (s := s) (by omega)
    have hzero : (0 : Half).toNat = 0 := rfl
    obtain ⟨u, hu, hus, huc⟩ := exec_cksum_on_window (s := serializedState s) (off := 0)
      (cnt := (serializedState s).flen) (by omega) (by omega)
    rw [e]
    refine ⟨u, hu, hus, huc.trans ?_⟩
    rw [hflen, hzero, serializedState_bytes_frame]
    exact cksum16_serializeMsg (by simp; omega)
  · have hoff : (20 : Half).toNat = 20 := rfl
    have hcnt : (s.flen - 20).toNat = s.flen.toNat - 20 := BitVec.toNat_sub_of_le (BitVec.le_def.2 (by omega))
    obtain ⟨u, hu, hus, huc⟩ := exec_cksum_on_window (s := s) (off := 20) (cnt := s.flen - 20) hhi (by omega)
    refine ⟨u, hu, hus, huc.trans ?_⟩
    rw [hoff, hcnt]
    have hlen := s.length_bytes .frame 20 (s.flen.toNat - 20)
    exact (cksum16_eq_zero_iff_getHalf (by omega) rfl (by omega)).2 (.inl hfield)

/-- Settles O38: `serialize_msg` of the parsed message puts the computed checksum into the segment, and
`cksum16_eq_zero_iff_getHalf` says which received fields verify. -/
theorem serializeOfParseReturnsTheSegment : Obligations.SerializeOfParseReturnsTheSegment := by
  intro d m hmax hparse
  obtain ⟨hlong, rfl⟩ := of_parseDgram_message hparse
  have hl : 2 + 1 < (d.drop 20).length := by simp; omega
  have hser : serializeMsg (messageOf d) = putHalf (d.drop 20) 2 (cksum16 (putHalf (d.drop 20) 2 0)) := by
    rw [serializeMsg_eq_putHalf, zeroedSegment_messageOf hlong, putHalf_putHalf]
  have hverifies := cksum16_eq_zero_iff_getHalf hmax rfl hl
  have hzeroed := cksum16_eq_zero_iff ((length_putHalf (d.drop 20) 2 0).trans_le hmax)
  rw [hser]
  refine ⟨length_putHalf _ _ _, fun k h2 h3 => getElem?_putHalf_other _ _ h2 h3, getHalf_putHalf _ _ _ hl,
    putHalf_eq_self_iff _ hl, fun hfield => hverifies.2 (.inl hfield), hverifies.1, fun hpos hmul => ?_⟩
  have hc := hzeroed.2 ⟨hpos.ne', hmul⟩
  exact ⟨hc, fun hones => hverifies.2 (.inr ⟨hc, hones⟩)⟩

end Sys2Proof.Machine
end

/-! ## Proofs: the codec (spec/41_codec.md) -/

section
/-! SUPPORT. The parsed message by its bytes in `FRAME`, the serialized bytes by their fields, and each outcome of the
two commands by its condition (spec/41_codec.md R83 to R89). -/

namespace Sys2Proof.Machine

/-! ### Reads of the registers and the buffers -/

theorem RegsKept.mono {rs rs' : List RegName} {s t : State} (h : RegsKept rs s t) (hsub : rs ⊆ rs') :
    RegsKept rs' s t := fun r hr => h r fun hm => hr (hsub hm)

/-- `STATUS` reads 0 after a success (R18). -/
theorem readReg_status_of_none {s : State} (h : s.status = .none) (P : Params) : readReg P .STATUS s = 0 := by
  rw [readReg, h]
  decide

theorem readReg_flen_toNat (P : Params) (s : State) : (readReg P .FLEN s).toNat = s.flen.toNat :=
  BitVec.toNat_setWidth_of_le (by decide)

theorem readReg_plen_toNat (P : Params) (s : State) : (readReg P .PLEN s).toNat = s.plen.toNat :=
  BitVec.toNat_setWidth_of_le (by decide)

theorem State.bytes_zero (s : State) (b : Buf) (n : Nat) : s.bytes b 0 n = (List.range n).map (s.byte b) := by
  simp only [State.bytes, Nat.zero_add]

/-- The write of one byte, as an update of the byte sequence. -/
theorem State.bytes_storeByte (s : State) (b : Buf) (k n : Nat) (v : Byte) :
    (s.storeByte b k v).bytes b 0 n = (s.bytes b 0 n).set k v :=
  List.ext_getElem (by simp) fun j _ _ => by
    simp [State.byte_storeByte, List.getElem_set]

/-! ### `PARSE` -/

/-- The message of a datagram in `FRAME`, byte by byte (R84, R85). -/
def frameMessage (s : State) : IcmpMessage where
  ttl := s.byte .frame 8
  source := le32 (s.byte .frame 12) (s.byte .frame 13) (s.byte .frame 14) (s.byte .frame 15)
  destination := le32 (s.byte .frame 16) (s.byte .frame 17) (s.byte .frame 18) (s.byte .frame 19)
  type := s.byte .frame 20
  code := s.byte .frame 21
  checksum := be16 (s.byte .frame 22) (s.byte .frame 23)
  identifier := be16 (s.byte .frame 24) (s.byte .frame 25)
  sequenceNumber := be16 (s.byte .frame 26) (s.byte .frame 27)
  payload := s.bytes .frame 28 (s.flen.toNat - 28)

theorem messageOf_frame {s : State} (h : 28 ≤ s.flen.toNat) :
    messageOf (s.bytes .frame 0 s.flen.toNat) = frameMessage s := by
  have hheader (k : Nat) (hk : k < 20) : (s.bytes .frame 0 s.flen.toNat).getD k 0 = s.byte .frame k := by
    rw [State.getD_bytes _ _ _ _ _ (by omega), Nat.zero_add]
  have hsegment (k : Nat) (hk : k < 8) :
      ((s.bytes .frame 0 s.flen.toNat).drop 20).getD k 0 = s.byte .frame (20 + k) := by
    rw [State.drop_bytes, State.getD_bytes _ _ _ _ _ (by omega), Nat.zero_add]
  have hpayload : ((s.bytes .frame 0 s.flen.toNat).drop 20).drop 8 = s.bytes .frame 28 (s.flen.toNat - 28) := by
    rw [List.drop_drop, State.drop_bytes]
  simp (disch := decide) only [messageOf, hheader, hsegment, hpayload]
  rfl

section
variable {P : Params} {s : State}

theorem parseCommand_over (h : P.frameCap < s.flen.toNat) : parseCommand P s = s.raise .lengthRange := by
  rw [parseCommand, if_pos h]

/-- On a frame within the capacity, `PARSE` raises the error of `parse_dgram` (R87). -/
theorem parseCommand_of_error {e : CmdError} (hcap : s.flen.toNat ≤ P.frameCap)
    (h : parseDgram (s.bytes .frame 0 s.flen.toNat) = .error e) : parseCommand P s = s.raise e := by
  rw [parseCommand, if_neg (by omega), h]

theorem parseCommand_short (hcap : s.flen.toNat ≤ P.frameCap) (h : s.flen.toNat < 20) :
    parseCommand P s = s.raise .truncatedIpHeader :=
  parseCommand_of_error hcap (parseDgram_short (by rwa [State.length_bytes]))

theorem parseCommand_middle (hcap : s.flen.toNat ≤ P.frameCap) (h : 20 ≤ s.flen.toNat) (h' : s.flen.toNat < 28) :
    parseCommand P s = s.raise .truncatedIcmpHeader :=
  parseCommand_of_error hcap
    (parseDgram_middle (by rwa [State.length_bytes]) (by rwa [State.length_bytes]))

/-- A `PARSE` that succeeds has parsed the frame (R87). -/
theorem parseCommand_of_status_none (h : (parseCommand P s).status = .none) : parseCommand P s = parsedState s := by
  rcases parseCommand_cases P s with ⟨_, e⟩ | ⟨_, _, e⟩ | ⟨_, _, _, e⟩ | ⟨_, _, e⟩ <;> rw [e] at h
  · cases h
  · cases h
  · cases h
  · exact e

end

/-! ### `SERIALIZE` -/

theorem serializeCommand_over {P : Params} {s : State} (h : P.payCap < s.plen.toNat) :
    serializeCommand P s = s.raise .lengthRange := by
  rw [serializeCommand, if_pos h]

/-- Bytes 2 and 3 of the serialized message hold the checksum of the zeroed segment (R88). -/
theorem getHalf_serializeMsg (m : IcmpMessage) : getHalf (serializeMsg m) 2 = cksum16 (zeroedSegment m) := by
  rw [serializeMsg_eq_putHalf, getHalf_putHalf _ 2 _ (by simp)]

/-- The payload follows the 8 bytes of the ICMP header (R88). -/
theorem serializeMsg_getD_payload (m : IcmpMessage) (k : Nat) :
    (serializeMsg m).getD (8 + k) 0 = m.payload.getD k 0 := by
  rw [Nat.add_comm, serializeMsg_eq]
  rfl

/-- After `SERIALIZE` the bytes of `PAYLOAD` below `PLEN` follow the ICMP header in `FRAME` (R89). -/
theorem serializedState_byte_payload (s : State) {k : Nat} (hk : k < s.plen.toNat) :
    (serializedState s).byte .frame (8 + k) = s.byte .payload k := by
  have hpayload : s.message.payload = s.bytes .payload 0 s.plen.toNat := rfl
  rw [serializedState_byte_frame s (by omega), serializeMsg_getD_payload, hpayload, State.getD_bytes _ _ _ _ _ hk,
    Nat.zero_add]

/-! ### `parse_dgram` after `serialize_msg` -/

/-- A message with the checksum `c`, and the `ttl` and the addresses of the IP header `h`. -/
def IcmpMessage.received (m : IcmpMessage) (c : Half) (h : List Byte) : IcmpMessage :=
  { m with
    checksum := c
    ttl := h.getD 8 0
    source := le32 (h.getD 12 0) (h.getD 13 0) (h.getD 14 0) (h.getD 15 0)
    destination := le32 (h.getD 16 0) (h.getD 17 0) (h.getD 18 0) (h.getD 19 0) }

theorem IcmpMessage.received_eq_self_iff (m : IcmpMessage) (c : Half) (h : List Byte) :
    m.received c h = m ↔ m.checksum = c ∧ m.ttl = h.getD 8 0
      ∧ m.source = le32 (h.getD 12 0) (h.getD 13 0) (h.getD 14 0) (h.getD 15 0)
      ∧ m.destination = le32 (h.getD 16 0) (h.getD 17 0) (h.getD 18 0) (h.getD 19 0) := by
  constructor
  · intro e
    exact ⟨congrArg checksum e.symm, congrArg ttl e.symm, congrArg source e.symm, congrArg destination e.symm⟩
  · rintro ⟨hc, ht, hs, hd⟩
    rw [received, ← hc, ← ht, ← hs, ← hd]

/-- Parsing an IP header followed by a serialized message (R93). -/
theorem parseDgram_append_serializeMsg (m : IcmpMessage) {h : List Byte} (hh : h.length = 20) :
    parseDgram (h ++ serializeMsg m) = .message (m.received (cksum16 (zeroedSegment m)) h) := by
  have hheader (k : Nat) (hk : k < 20) : (h ++ serializeMsg m).getD k 0 = h.getD k 0 :=
    List.getD_append _ _ _ _ (by omega)
  have hsegment : (h ++ serializeMsg m).drop 20 = serializeMsg m := List.drop_left' hh
  rw [parseDgram_long (by rw [List.length_append, length_serializeMsg]; omega)]
  simp (disch := decide) only [messageOf, hheader, hsegment]
  simp [IcmpMessage.received, serializeMsg_eq]

end Sys2Proof.Machine
end

section
/-! The statements of spec/41_codec.md, settled. -/

namespace Sys2Proof.Machine

/-- Settles O32: the registers hold the message of the frame (`message_parsedState`, `messageOf_frame`), what else may
change is in `writesOnly_parseCommand`, and each other length has its error. -/
theorem parseFillsTheMessage : Obligations.ParseFillsTheMessage := by
  have hframeCap : Config.params.frameCap = 2000 := rfl
  refine ⟨decode_encode .parse, fun s => ⟨fun hlo hhi => ⟨parsedState s, ?_⟩, fun h => ?_, fun h => ?_, fun h h' => ?_⟩⟩
  · have hparse : parseCommand Config.params s = parsedState s := parseCommand_long hhi hlo
    have hmessage := (message_parsedState s).trans (messageOf_frame hlo)
    simp only [State.message, frameMessage, IcmpMessage.mk.injEq] at hmessage
    obtain ⟨htype, hcode, hchecksum, hident, hseq, _, httl, hsrc, hdst⟩ := hmessage
    obtain ⟨hregs, hframe, hpayload, hown⟩ := writesOnly_parseCommand Config.params (fun _ => False) s
    rw [hparse] at hregs hframe hpayload hown
    have hread {n : Nat} {x y : BitVec n} (h : x = y) : x.setWidth 32 = y.setWidth 32 := congrArg _ h
    refine ⟨congrArg Host.Outcome.next hparse, hread httl, hsrc, hdst, hread htype, hread hcode, hread hchecksum,
      hread hident, hread hseq, ?_, readReg_status_of_none rfl _, ?_, fun k hk => ?_,
      hpayload.mono fun _ ⟨_, _, hk⟩ => hk, hframe, hregs.mono (by decide), hown⟩
    · rw [readReg_plen_toNat, parsedState_plen_toNat]
    · rw [readReg, htype]
    · rw [parsedState_byte_payload, if_pos hk]
  · exact congrArg Host.Outcome.next (parseCommand_over h)
  · exact congrArg Host.Outcome.next (parseCommand_short (by omega) h)
  · exact congrArg Host.Outcome.next (parseCommand_middle (by omega) h (by omega))

/-- Settles O33: `FRAME` holds the serialized message below the new length (`serializedState_byte_frame`), and what else
may change is in `writesOnly_serializeCommand`. -/
theorem serializeBuildsTheSegment : Obligations.SerializeBuildsTheSegment := by
  refine ⟨decode_encode .serialize, fun s => ⟨fun hfits => ⟨serializedState s, ?_⟩, fun h => ?_⟩⟩
  · have hserialize : serializeCommand Config.params s = serializedState s := serializeCommand_fits hfits
    obtain ⟨hregs, hframe, hpayload, hown⟩ := writesOnly_serializeCommand Config.params (fun _ => False) s
    rw [hserialize] at hregs hframe hpayload hown
    have hheader (k : Nat) (hk : k < 8) : (serializedState s).byte .frame k = (serializeMsg s.message).getD k 0 :=
      serializedState_byte_frame s (by omega)
    refine ⟨congrArg Host.Outcome.next hserialize, cksum16 (zeroedSegment s.message), ?_, hheader 0 (by decide),
      hheader 1 (by decide), hheader 2 (by decide), hheader 3 (by decide), hheader 4 (by decide),
      hheader 5 (by decide), hheader 6 (by decide), hheader 7 (by decide),
      fun k hk => serializedState_byte_payload s hk, hframe.mono fun _ ⟨_, hk⟩ => hk, hpayload, ?_, rfl,
      readReg_status_of_none rfl _, hregs, hown⟩
    · rw [zeroedSegment, State.message, State.bytes_zero]
      rfl
    · rw [readReg_flen_toNat, serializedState_flen_toNat (by omega)]
  · exact congrArg Host.Outcome.next (serializeCommand_over h)

/-- Settles O34: a command that succeeds leaves `serializedState` or `parsedState`. -/
theorem lengthLaw : Obligations.LengthLaw := by
  refine ⟨fun m => (length_serializeMsg m).trans (Nat.add_comm _ _), fun s => ⟨_, exec_serialize s, fun h => ?_⟩,
    fun s => ⟨_, exec_parse s, fun h => ?_⟩⟩
  · obtain ⟨hfits, e⟩ := serializeCommand_of_status_none h
    have hcap : Config.params.payCap = 1992 := rfl
    rw [e]
    exact serializedState_flen_toNat (by omega)
  · rw [parseCommand_of_status_none h]
    exact parsedState_plen_toNat s

/-- Settles O35: both sides are the checksum of the zeroed segment; zeroing the two bytes of `FRAME` zeroes the field of
the bytes that `CKSUM` sums (`State.bytes_storeByte`). -/
theorem embeddedChecksumIsRecomputed : Obligations.EmbeddedChecksumIsRecomputed := by
  have hfunction (m : IcmpMessage) : cksum16 (putHalf (serializeMsg m) 2 0) = getHalf (serializeMsg m) 2 := by
    rw [putHalf_serializeMsg, getHalf_serializeMsg]
  refine ⟨hfunction, fun s t ht hs => ?_⟩
  cases ht
  obtain ⟨hfits, e⟩ := serializeCommand_of_status_none hs
  have hcap : Config.params.payCap = 1992 := rfl
  have hflen := serializedState_flen_toNat (s := s) (by omega)
  have hzero : (0 : Half).toNat = 0 := rfl
  rw [e]
  obtain ⟨u, hu, hus, huc⟩ := exec_cksum_on_window
    (s := ((serializedState s).storeByte .frame 2 0).storeByte .frame 3 0) (off := 0)
    (cnt := (serializedState s).flen) (by simp only [State.storeByte_flen]; omega)
    (by simp only [State.storeByte_flen]; omega)
  refine ⟨u, hu, hus, huc.trans ?_⟩
  rw [hzero, hflen, State.bytes_storeByte, State.bytes_storeByte, serializedState_bytes_frame, serializedState_csum]
  exact hfunction s.message

/-- Settles O37: `parseDgram_append_serializeMsg`, and which fields the received message may differ in. -/
theorem parseOfSerializeReturnsTheMessage : Obligations.ParseOfSerializeReturnsTheMessage := by
  intro m h hh
  rw [parseDgram_append_serializeMsg m hh, putHalf_serializeMsg]
  exact ⟨rfl, (ParseResult.message.injEq _ _).to_iff.trans (m.received_eq_self_iff _ h)⟩

/-- Settles O30: each range of lengths has its outcome, and the three outcomes differ. -/
theorem parseOutcomeByLength : Obligations.ParseOutcomeByLength := by
  intro d
  rcases Nat.lt_or_ge d.length 20 with hshort | hlong
  · rw [parseDgram_short hshort]
    simp only [ParseResult.error.injEq, reduceCtorEq, exists_false, true_iff, false_iff]
    omega
  · rcases Nat.lt_or_ge d.length 28 with hmiddle | hfull
    · rw [parseDgram_middle hlong hmiddle]
      simp only [ParseResult.error.injEq, reduceCtorEq, exists_false, true_iff, false_iff]
      omega
    · rw [parseDgram_long hfull]
      simp only [ParseResult.message.injEq, reduceCtorEq, exists_eq', true_iff, false_iff]
      omega

end Sys2Proof.Machine
end

/-! ## Proofs: the control commands (spec/42_control.md) -/

section
/-! The statements of spec/42_control.md, settled. -/

namespace Sys2Proof.Machine

/-- Settles O39: success is the error `.none`, and setting the error changes no register but `STATUS`
(`regsKept_raise`) and no byte. -/
theorem nopOnlyClearsStatus : Obligations.NopOnlyClearsStatus :=
  ⟨decode_encode .nop, fun s => ⟨s.raise .none, exec_nop s, readReg_status_of_none rfl _,
    regsKept_raise (by decide) s .none, fun b => bytesKept_raise s .none b _, rfl, rfl, rfl⟩⟩

/-- Settles O40: every register reads as in the reset state (`readReg_clearRegs`), where the storage registers read 0
(O7), and what else may change is in `writesOnly_clearRegs`. -/
theorem softResetClearsTheRegisters : Obligations.SoftResetClearsTheRegisters := by
  refine ⟨decode_encode .srst, fun s => ⟨s.clearRegs, exec_srst s, fun r hr => ?_,
    fun r => readReg_clearRegs _ r s, ?_⟩⟩
  · obtain ⟨hzero, _⟩ := resetStateRegisters
    rw [readReg_clearRegs]
    exact hzero r (List.mem_cons_of_mem _ hr)
  · obtain ⟨_, hframe, hpayload, hown⟩ := writesOnly_clearRegs (fun _ => False) (fun _ => False) s
    refine ⟨fun b => ?_, hown⟩
    cases b with
    | frame => exact hframe
    | payload => exact hpayload

end Sys2Proof.Machine
end

/-! ## Proofs: the errors (spec/60_exceptions.md) -/

section
/-! SUPPORT. The error that each command leaves, as a function of the length registers alone, and what a failed
command leaves unchanged (spec/60_exceptions.md R103 to R110). -/

namespace Sys2Proof.Machine

/-! ### The error of each command -/

/-- `STATUS` tells the five errors apart (R60, R103). -/
theorem readReg_status_eq_iff (P : Params) (s : State) (e : CmdError) :
    readReg P .STATUS s = e.statusBits.setWidth 32 ↔ s.status = e :=
  ⟨fun h => CmdError.statusBits_injective h, fun h => by rw [readReg, h]⟩

section
variable (P : Params) (s : State)

theorem cksumCommand_status :
    (cksumCommand P s).status
      = if P.frameCap < s.flen.toNat ∨ s.flen.toNat < s.ckOff.toNat + s.ckLen.toNat then .lengthRange else .none := by
  rcases cksumCommand_cases P s with ⟨hbad, e⟩ | ⟨hcap, hwin, e⟩ <;> rw [e]
  · rw [if_pos hbad]
    rfl
  · rw [if_neg (by omega)]
    rfl

theorem parseCommand_status :
    (parseCommand P s).status
      = if P.frameCap < s.flen.toNat then .lengthRange
        else if s.flen.toNat < 20 then .truncatedIpHeader
        else if s.flen.toNat < 28 then .truncatedIcmpHeader
        else .none := by
  rcases parseCommand_cases P s with ⟨hcap, e⟩ | ⟨hcap, hlen, e⟩ | ⟨hcap, hlen, hlen', e⟩ | ⟨hcap, hlen, e⟩ <;> rw [e]
  · rw [if_pos hcap]
    rfl
  · rw [if_neg (by omega), if_pos hlen]
    rfl
  · rw [if_neg (by omega), if_neg (by omega), if_pos hlen']
    rfl
  · rw [if_neg (by omega), if_neg (by omega), if_neg (by omega)]
    rfl

theorem serializeCommand_status :
    (serializeCommand P s).status = if P.payCap < s.plen.toNat then .lengthRange else .none := by
  rcases serializeCommand_cases P s with ⟨hcap, e⟩ | ⟨hcap, e⟩ <;> rw [e]
  · rw [if_pos hcap]
    rfl
  · rw [if_neg (by omega)]
    rfl

end

/-! ### A failed command -/

/-- If `t` holds an error, it is `s` with `STATUS` replaced: what R106 asks of the state `t` after a command. -/
def FailureKeepsTheRest (s t : State) : Prop := t.status ≠ .none → t = { s with status := t.status }

theorem failureKeepsTheRest_raise (s : State) (e : CmdError) : FailureKeepsTheRest s (s.raise e) := fun _ => rfl

theorem failureKeepsTheRest_of_success {s t : State} (h : t.status = .none) : FailureKeepsTheRest s t :=
  fun hfail => absurd h hfail

theorem failureKeepsTheRest_cksumCommand (P : Params) (s : State) : FailureKeepsTheRest s (cksumCommand P s) := by
  rcases cksumCommand_cases P s with ⟨_, e⟩ | ⟨_, _, e⟩ <;> rw [e]
  · exact failureKeepsTheRest_raise s _
  · exact failureKeepsTheRest_of_success rfl

theorem failureKeepsTheRest_parseCommand (P : Params) (s : State) : FailureKeepsTheRest s (parseCommand P s) := by
  rcases parseCommand_cases P s with ⟨_, e⟩ | ⟨_, _, e⟩ | ⟨_, _, _, e⟩ | ⟨_, _, e⟩ <;> rw [e]
  · exact failureKeepsTheRest_raise s _
  · exact failureKeepsTheRest_raise s _
  · exact failureKeepsTheRest_raise s _
  · exact failureKeepsTheRest_of_success rfl

theorem failureKeepsTheRest_serializeCommand (P : Params) (s : State) :
    FailureKeepsTheRest s (serializeCommand P s) := by
  rcases serializeCommand_cases P s with ⟨_, e⟩ | ⟨_, e⟩ <;> rw [e]
  · exact failureKeepsTheRest_raise s _
  · exact failureKeepsTheRest_of_success rfl

/-- For all parameters a command answers a next state; `NOP` and `SRST` always succeed. -/
theorem execAt_failureKeepsTheRest (P : Params) (i : Instr) (s : State) :
    ∃ t, execAt P i s = .next t ∧ FailureKeepsTheRest s t := by
  cases i with
  | nop => exact ⟨_, rfl, failureKeepsTheRest_of_success rfl⟩
  | cksum => exact ⟨_, rfl, failureKeepsTheRest_cksumCommand P s⟩
  | parse => exact ⟨_, rfl, failureKeepsTheRest_parseCommand P s⟩
  | serialize => exact ⟨_, rfl, failureKeepsTheRest_serializeCommand P s⟩
  | srst => exact ⟨_, rfl, failureKeepsTheRest_of_success rfl⟩

end Sys2Proof.Machine
end

section
/-! The statements of spec/60_exceptions.md, settled. -/

namespace Sys2Proof.Machine

/-- Settles O18: a word written to `CMD` runs a command, or is reserved and only raises `IllegalCommand`. -/
theorem failedCommandChangesStatusOnly : Obligations.FailedCommandChangesStatusOnly := by
  refine ⟨fun i s => ?_, fun P w s => ?_⟩
  · rw [← execAt_default]
    exact execAt_failureKeepsTheRest Config.params i s
  · rcases runCommandAt_cases P w s with ⟨i, _, e⟩ | ⟨_, e⟩ <;> rw [e]
    · exact execAt_failureKeepsTheRest P i s
    · exact ⟨_, rfl, failureKeepsTheRest_raise s .illegalCommand⟩

/-- Settles O19: `STATUS` reads 4 exactly for the error `LengthRange`, and each command's error is a function of the
lengths. -/
theorem lengthRangeExactlyAsListed : Obligations.LengthRangeExactlyAsListed := by
  intro s
  have hframeCap : Config.params.frameCap = 2000 := rfl
  have hpayCap : Config.params.payCap = 1992 := rfl
  have hread (t : State) : readReg Config.params .STATUS t = 4 ↔ t.status = .lengthRange :=
    readReg_status_eq_iff _ t .lengthRange
  refine ⟨⟨_, exec_cksum s, ?_⟩, ⟨_, exec_parse s, ?_⟩, ⟨_, exec_serialize s, ?_⟩,
    ⟨_, exec_nop s, fun h => nomatch (hread _).1 h⟩, ⟨_, exec_srst s, fun h => nomatch (hread _).1 h⟩⟩
  · rw [hread, cksumCommand_status, hframeCap]
    split_ifs with hbad
    · exact iff_of_true rfl hbad
    · exact iff_of_false nofun hbad
  · rw [hread, parseCommand_status, hframeCap]
    split_ifs with hover
    · exact iff_of_true rfl hover
    all_goals exact iff_of_false nofun hover
  · rw [hread, serializeCommand_status, hpayCap]
    split_ifs with hover
    · exact iff_of_true rfl hover
    · exact iff_of_false nofun hover

/-- Settles O20: the three values that `STATUS` reads stand for the two truncation errors and success, and the error of
`PARSE` is a function of the length alone (`parseCommand_status`). -/
theorem parseTruncationByLengthAlone : Obligations.ParseTruncationByLengthAlone := by
  intro s
  have hframeCap : Config.params.frameCap = 2000 := rfl
  have hread (e : CmdError) := readReg_status_eq_iff Config.params (parseCommand Config.params s) e
  refine ⟨_, exec_parse s, (hread .truncatedIpHeader).trans ?_, (hread .truncatedIcmpHeader).trans ?_,
    (hread .none).trans ?_⟩
  all_goals
    rw [parseCommand_status, hframeCap]
    split_ifs <;> simp only [true_iff, false_iff] <;> omega

/-- Settles O22: no command reads the earlier error; `NOP` and `SRST` replace it. -/
theorem statusIsNotSticky : Obligations.StatusIsNotSticky := by
  intro i s e
  cases i with
  | nop => rfl
  | cksum => exact congrArg Host.Outcome.next (cksumCommand_raise Config.params s e)
  | parse => exact congrArg Host.Outcome.next (parseCommand_raise Config.params s e)
  | serialize => exact congrArg Host.Outcome.next (serializeCommand_raise Config.params s e)
  | srst => rfl

end Sys2Proof.Machine
end

/-! ## Proofs: reset and the bounds of every command (spec/70_reset_and_hazards.md) -/

section
/-! The statements of spec/70_reset_and_hazards.md, settled. -/

namespace Sys2Proof.Machine

/-- The message of the reset state serializes from 8 zero bytes: all its fields are 0 and its payload is empty (R37). -/
theorem zeroedSegment_message_reset : zeroedSegment State.reset.message = List.replicate 8 0 := rfl

/-- Settles O6: the step of a write to `CMD` runs the word (`step_command`), and the word answers a next state that
keeps the rest of the list, be it a command or reserved (`runCommand_completes`). -/
theorem everyCommandWriteCompletes : Obligations.EveryCommandWriteCompletes := by
  refine ⟨exec_completes, fun s w rest h => ?_⟩
  obtain ⟨t, ht, hpend⟩ := runCommand_completes w (s.begin rest .completed)
  exact ⟨t, (step_command h).trans ht, hpend⟩

/-- Settles O9: in the reset state every length is 0, so `CKSUM` sums the empty window, `PARSE` sees an empty frame, and
`SERIALIZE` embeds the checksum of 8 zero bytes; both checksums are `0xFFFF` by R77. -/
theorem commandsAreDefinedInTheResetState : Obligations.CommandsAreDefinedInTheResetState := by
  obtain ⟨hones, _, hempty⟩ := checksumIsFFFFExactlyOnZeros
  have hcksum : cksumCommand Config.params State.reset = (State.reset.setCsum (cksum16 [])).succeed :=
    cksumCommand_inside (by decide) (by decide)
  have hparse : parseCommand Config.params State.reset = State.reset.raise .truncatedIpHeader :=
    parseCommand_short (by decide) (by decide)
  have hserialize : serializeCommand Config.params State.reset = serializedState State.reset :=
    serializeCommand_fits (by decide)
  have hsum : cksum16 (List.replicate 8 0) = 0xFFFF := (hones _ (by decide)).2 fun _ => List.eq_of_mem_replicate
  refine ⟨⟨_, congrArg Host.Outcome.next hcksum, readReg_status_of_none rfl _, ?_⟩,
    ⟨_, congrArg Host.Outcome.next hparse, rfl⟩,
    ⟨_, congrArg Host.Outcome.next hserialize, readReg_status_of_none rfl _, rfl, ?_, ?_⟩⟩
  · rw [hempty]
    rfl
  · rw [serializedState, zeroedSegment_message_reset, hsum]
    rfl
  · refine (serializedState_bytes_frame State.reset).trans ?_
    rw [serializeMsg_eq_putHalf, zeroedSegment_message_reset, hsum]
    rfl

end Sys2Proof.Machine
end
